-- ==== Sys2Proof/Word.lean ====
section
/-! DEFINITION. The two word types of the machine: the byte that every bus access carries and the 16-bit
address (spec/00_scope.md R7, R9). Arithmetic on them is `BitVec` arithmetic, modulo 2^8 and 2^16 (R9). -/

namespace Sys2Proof

/-- A u8: register contents, flag byte, data bus (spec/00_scope.md R7, R9). -/
abbrev Byte := BitVec 8

/-- A u16: program counter and address (spec/00_scope.md R7, R9). -/
abbrev Word := BitVec 16

end Sys2Proof
end

