-- ==== Sys2Proof/Config.lean ====
section
/-! DEFINITION. The configuration of a machine: the named parameters of spec/00_scope.md R8 as plain data,
with their defaults (spec/92_eei_decisions.md). The spec calls them parameters of the step relation, fixed
for a whole run (spec/10_state.md R49): State carries one `Config` and no step or host call changes it, so a
statement about every state is a statement about every value of every parameter.
`CYCLE_IRQ_TICK` has one value only, `cpu_cycle` (R8, D22), and so is no field here: it is the host call
`tickCpu` of Machine/HostCalls.lean. -/

namespace Sys2Proof

/-- `IRQ_MASK_POINT` (R8, D6): where the I flag masks a maskable request. -/
inductive IrqMaskPoint where
  | request
  | delivery
  deriving DecidableEq, Repr

/-- `PAGE_PENALTY_MODE` (R8, D9): which opcodes pay the page-crossing cycle. -/
inductive PagePenaltyMode where
  | perOpcode
  | uniform
  deriving DecidableEq, Repr

/-- `BRANCH_PAGE_REF` (R8, D10): the address a taken branch's target is compared with. -/
inductive BranchPageRef where
  | nextPc
  | opcodePc
  deriving DecidableEq, Repr

/-- `MMC3_IRQ_MODE` (R8, D18): the period of the MMC3-class scanline counter. -/
inductive Mmc3IrqMode where
  | source
  | hardware
  deriving DecidableEq, Repr

/-- `CHR_WRITABLE` (R8, D17): whether writes to `$0000-$1FFF` of the mapper's index space reach the
character store. The default is `whenSynthesized`, true exactly when the bank was synthesized. -/
inductive ChrWritable where
  | whenSynthesized
  | always
  | never
  deriving DecidableEq, Repr

/-- What answers in one window of the bus: RAM, whose cell is the address masked (so that a small RAM can be
mirrored through a larger window, spec/20_memory.md R83), the mapper of the loaded cartridge, or another device, whose
behaviour is not in scope (spec/60_exceptions.md R538) and comes from outside as the replies of State. -/
inductive BusTarget where
  | ram (mask : Word)
  | mapper
  | device
  deriving DecidableEq, Repr

/-- A window of the SystemBus: the addresses `first` to `last`, both included, and what answers there. -/
structure BusWindow where
  first  : Word
  last   : Word
  target : BusTarget
  deriving DecidableEq, Repr

/-- The three register operations of the cycle-based IRQ component (spec/51_mapper_common.md R426). -/
inductive CycleIrqOp where
  | setLatch
  | setControl
  | acknowledge
  deriving DecidableEq, Repr

/-- One entry of `CYCLE_IRQ_REGMAP` (spec/51_mapper_common.md R427): address bits 15:12, the selector and the
operation they choose. -/
structure CycleIrqReg where
  page : BitVec 4
  sel  : BitVec 2
  op   : CycleIrqOp
  deriving DecidableEq, Repr

/-- One entry of `NYBBLE_REGMAP` (spec/51_mapper_common.md R428): the low and the high address of a slot. -/
structure NybbleReg where
  lowAddr  : Word
  highAddr : Word
  deriving DecidableEq, Repr

/-- The parameters of spec/00_scope.md R8. -/
structure Config where
  /-- `BUS`: the first window that contains an address and whose target is present answers it. What a device answers
  there, and how the devices react to an access, is the input `State.replies` (notes 1). -/
  bus              : List BusWindow
  /-- `POWERON_AXY` (D3). -/
  powerOnA         : Byte
  powerOnX         : Byte
  powerOnY         : Byte
  /-- `RESET_SP`, `RESET_P` (D3). -/
  resetSp          : Byte
  resetP           : Byte
  /-- `VEC_NMI`, `VEC_RESET`, `VEC_IRQ` (D4). -/
  vecNmi           : Word
  vecReset         : Word
  vecIrq           : Word
  /-- `INT_PUSH_B` (D5). -/
  intPushB         : Bool
  irqMaskPoint     : IrqMaskPoint
  pagePenaltyMode  : PagePenaltyMode
  branchPageRef    : BranchPageRef
  mmc3IrqMode      : Mmc3IrqMode
  /-- `MMC3_IRQ_CYCLE` (D18). -/
  mmc3IrqCycle     : Int
  /-- `MMC3_POWERON_R` (D20). -/
  mmc3PowerOnR     : Vector Byte 8
  chrWritable      : ChrWritable
  /-- `SUPPORTED_MAPPERS` (D24). -/
  supportedMappers : List Byte
  /-- `MAPPER_FIX_TABLE` (D47): checksum and corrected mapper id; the first match counts. -/
  mapperFixTable   : List (BitVec 32 × Byte)
  /-- `CYCLE_IRQ_DIVIDE` (D22). -/
  cycleIrqDivide   : Nat
  /-- `CYCLE_IRQ_A01_SWAP` (D22). -/
  cycleIrqA01Swap  : Bool
  /-- `CYCLE_IRQ_REGMAP` (D22), OPEN in the spec (notes 3). -/
  cycleIrqRegMap   : List CycleIrqReg
  /-- `NYBBLE_REGMAP` (D23), OPEN in the spec (notes 3): entries 0 to 3 are the program slots, 4 to 11 the
  character slots. -/
  nybbleRegMap     : List NybbleReg
  deriving DecidableEq, Repr

/-- DESIGN CHOICE (notes 1). The bus of the machine at reset: the mapper answers `$6000-$FFFF` when a
cartridge is loaded (spec/92_eei_decisions.md D25), and RAM answers every other address. With no cartridge it
is the flat 64 KiB RAM of spec/95_test_vectors.md section 0. -/
def defaultBus : List BusWindow :=
  [{ first := 0x6000, last := 0xFFFF, target := .mapper },
   { first := 0x0000, last := 0xFFFF, target := .ram 0xFFFF }]

/-- The bus of program P4 (spec/95_test_vectors.md section 4): 2 KiB of RAM mirrored through `$1FFF`, the
mapper at `$6000-$FFFF`, nothing elsewhere. -/
def consoleBus : List BusWindow :=
  [{ first := 0x0000, last := 0x1FFF, target := .ram 0x07FF },
   { first := 0x6000, last := 0xFFFF, target := .mapper }]

/-- Every parameter at its default (spec/00_scope.md R8). `bus` and the two OPEN register maps have no
default in the spec: notes 1 and 3. -/
def Config.default : Config where
  bus              := defaultBus
  powerOnA         := 0
  powerOnX         := 0
  powerOnY         := 0
  resetSp          := 0xFD
  resetP           := 0x24
  vecNmi           := 0xFFFA
  vecReset         := 0xFFFC
  vecIrq           := 0xFFFE
  intPushB         := false
  irqMaskPoint     := .request
  pagePenaltyMode  := .perOpcode
  branchPageRef    := .nextPc
  mmc3IrqMode      := .source
  mmc3IrqCycle     := 280
  mmc3PowerOnR     := #v[0, 0, 0, 0, 0, 0, 0, 1]
  chrWritable      := .whenSynthesized
  supportedMappers := [0, 1, 4]
  mapperFixTable   := []
  cycleIrqDivide   := 3
  cycleIrqA01Swap  := false
  cycleIrqRegMap   := []
  nybbleRegMap     := []

end Sys2Proof
end

