-- ==== Sys2Proof/Machine/State.lean ====
section
/-! DEFINITION. The state of the machine as plain data: the processor's record (spec/10_state.md R30), the RAM on the bus, the
cartridge with its mapper (R50), the configuration, the replies of the other devices, and the two outputs of the last
transaction (the step's return value, and the bus transactions and mapper events it made). The reasons a step may stop, and
the state right after reset. -/

namespace Sys2Proof.Machine

/-- Why a step faults. There is no fault: "there is no recoverable error during normal execution — every opcode
byte has a defined entry" (spec/60_exceptions.md R532): no opcode traps as illegal, no access faults, no
arithmetic exception, no stack trap. The type has no constructor, so nothing can raise one (safe). -/
inductive Fault where
  deriving DecidableEq, Repr

/-- Why a step is refused. -/
inductive Refusal where
  /-- Raised by exec's arm of an instruction that has no meaning yet, by its mnemonic (safe: the machine stops
  where the hardware goes on). No arm raises it now. -/
  | notModelled (mnemonic : String)
  deriving DecidableEq, Repr

/-- Sparse memory: (address, byte) pairs, addresses strictly rising, no zero byte listed. An address that is not
listed reads as 0 (spec/95_test_vectors.md section 0 for the flat RAM; notes 2). `Memory.wf` of Machine/Memory.lean is
this form. -/
abbrev Memory := List Host.Cell

/-- The pending-interrupt kind (spec/10_state.md R47). -/
inductive Pending where
  | none
  | nmi
  | irq
  deriving DecidableEq, Repr

/-- The mirroring modes (spec/51_mapper_common.md R420). No supported board produces the last two. -/
inductive Mirroring where
  | horizontal
  | vertical
  | singleScreen0
  | singleScreen1
  | fourScreen
  | diagonal
  | lShaped
  deriving DecidableEq, Repr

/-- What a step or a host call shows to the world outside the processor, in order: the bus transactions
(spec/20_memory.md R75, spec/40_step_and_addressing.md R140) and the mapper's events (spec/51_mapper_common.md
R410, R421, R422, R424). -/
inductive BusEvent where
  /-- `MemRead(a, 1)` returned v. -/
  | read (a : Word) (v : Byte)
  /-- `MemWrite(a, 1, v)`. -/
  | write (a : Word) (v : Byte)
  /-- The mapper requests an interrupt. -/
  | irq
  /-- The mapper acknowledges its interrupt. -/
  | irqAck
  /-- The mirroring mode has changed to m. -/
  | mirroringChanged (m : Mirroring)
  /-- The window of `length` bytes at `address` shows another part of its array. -/
  | bankSwitched (address length : Nat)
  deriving DecidableEq, Repr

/-- A call that a device on the bus may make during an access (spec/60_exceptions.md R538). -/
inductive DeviceCall where
  /-- `signal NMI` (spec/60_exceptions.md R522) -/
  | signalNmi
  /-- `signal IRQ` (spec/60_exceptions.md R521) -/
  | signalIrq
  /-- `cancel IRQ` (spec/60_exceptions.md R524) -/
  | cancelIrq
  /-- `addStall(n)` (spec/10_state.md R55) -/
  | addStall (n : Nat)
  deriving DecidableEq, Repr

/-- What the devices on the bus, other than RAM and the mapper, make of one access of the processor: the byte that the
external read function answers where the access is a read in a device window, and the calls that a device makes during
the access, in order (spec/10_state.md R53, R57, spec/20_memory.md R75, R78, spec/60_exceptions.md R538). -/
structure Reply where
  value : Byte
  calls : List DeviceCall
  deriving DecidableEq, Repr

/-- The registers of the MMC1-class board (spec/52_mapper_boards.md R460). -/
structure Mmc1 where
  shift   : BitVec 5
  count   : Nat
  control : BitVec 5
  chr0    : BitVec 5
  chr1    : BitVec 5
  prgReg  : BitVec 5
  deriving DecidableEq, Repr

/-- The registers of the MMC3-class board (spec/52_mapper_boards.md R480). `bank` is R[0..7]. -/
structure Mmc3 where
  bankSelect : Byte
  bank       : Vector Byte 8
  irqLatch   : Byte
  irqCounter : Byte
  irqReload  : Bool
  irqEnable  : Bool
  deriving DecidableEq, Repr

/-- The board behind the mapper interface, each with its own registers (spec/51_mapper_common.md R410,
spec/52_mapper_boards.md R450, R460, R480). -/
inductive Board where
  | nrom
  | mmc1 (m : Mmc1)
  | mmc3 (m : Mmc3)
  deriving DecidableEq, Repr

/-- The cycle-based IRQ generator, a component a board may embed (spec/51_mapper_common.md R426). -/
structure CycleIrq where
  latch     : Byte
  counter   : Byte
  prescaler : Nat
  enabled   : Bool
  deriving DecidableEq, Repr

/-- The nybble-latched bank registers, a component a board may embed (spec/51_mapper_common.md R428): four
program slots, eight character slots, and one pending low nybble per slot (program slots first). -/
structure NybbleRegs where
  prgSlot : Vector Byte 4
  chrSlot : Vector Byte 8
  pendLo  : Vector (BitVec 4) 12
  deriving DecidableEq, Repr

/-- The cartridge record (spec/50_cartridge.md R387) and the mapper built with it (spec/51_mapper_common.md
R420, R429). The arrays are sparse: `prg` holds `prgLen` bytes, `chr` holds `chrLen` bytes, `saveRam` 8192. -/
structure Cartridge where
  prg              : Memory
  prgLen           : Nat
  chr              : Memory
  chrLen           : Nat
  chrIsRam         : Bool
  saveRam          : Memory
  dirty            : Bool
  mapperId         : Byte
  initialMirroring : Mirroring
  battery          : Bool
  crc              : BitVec 32
  mirroring        : Mirroring
  board            : Board
  /-- The embedded cycle-based IRQ generator; no supported board has one (R426). -/
  cycleIrq         : Option CycleIrq
  /-- The embedded nybble-latched registers; no supported board has them (R428). -/
  nybble           : Option NybbleRegs
  deriving DecidableEq, Repr

/-- The state of the machine. -/
structure State where
  /-- Accumulator (spec/10_state.md R31). -/
  a        : Byte
  /-- Index register X (R32). -/
  x        : Byte
  /-- Index register Y (R33). -/
  y        : Byte
  /-- Stack pointer S, an offset into page `$01` (R34). -/
  sp       : Byte
  /-- Program counter (R35). -/
  pc       : Word
  /-- Packed flag byte P (R36). -/
  p        : Byte
  /-- Cycle counter (R45). -/
  cycles   : BitVec 64
  /-- Stall-cycle counter (R46). -/
  stall    : Nat
  /-- Pending-interrupt kind (R47). -/
  pending  : Pending
  /-- Lock-up state (R48). -/
  halted   : Bool
  /-- The RAM that answers in the RAM windows of the bus (spec/20_memory.md R83). -/
  ram      : Memory
  /-- The loaded cartridge with its mapper (R50), if any. -/
  cart     : Option Cartridge
  /-- The parameters of the run (R49); no transaction changes them. -/
  cfg      : Config
  /-- What the external read and write functions of `BUS` (spec/10_state.md R57) give for the accesses to come, first
  access first: an input of the machine. Any behaviour of the devices of R538 is some list (notes 1). -/
  replies  : List Reply
  /-- The model's own field (notes 4): what the last step returned (spec/40_step_and_addressing.md R139). -/
  returned : BitVec 64
  /-- The model's own field (notes 4): what the last step or host call showed outside, oldest first. -/
  events   : List BusEvent
  deriving DecidableEq, Repr

/-- The machine right after reset (spec/70_reset_and_hazards.md R560, R568, R570): power-on with every parameter
at its default and no cartridge loaded, then `reset()`. The two bytes of the reset vector are read through the
bus, whose RAM lists nothing, so they are 0 and PC is 0 (notes 2). Tests/Slice0.lean shows that this is what
`powerOn` of Machine/HostCalls.lean gives. -/
def State.reset : State where
  a        := 0
  x        := 0
  y        := 0
  sp       := 0xFD
  pc       := 0x0000
  p        := 0x24
  cycles   := 0
  stall    := 0
  pending  := .none
  halted   := false
  ram      := []
  cart     := none
  cfg      := Config.default
  replies  := []
  returned := 0
  events   := [.read 0xFFFC 0x00, .read 0xFFFD 0x00]

end Sys2Proof.Machine
end

