-- ==== Sys2Proof/Machine/Alu.lean ====
section
/-! DEFINITION. The `6502_alu` sub-block (spec/41_alu.md): pure functions on bytes and the carry, each returning its
result and the flags it produces. There is no decimal mode: `P.D` is no input of any of them (R176). -/

namespace Sys2Proof.Machine

/-- A result byte with its carry and overflow outputs. -/
structure AluOut where
  r : Byte
  c : Bool
  v : Bool
  deriving DecidableEq, Repr

/-- A result byte with its carry output. -/
structure ShiftOut where
  r : Byte
  c : Bool
  deriving DecidableEq, Repr

/-- The flags of a compare. -/
structure CmpOut where
  c : Bool
  z : Bool
  n : Bool
  deriving DecidableEq, Repr

/-- The flags of a bit test. -/
structure BitOut where
  z : Bool
  v : Bool
  n : Bool
  deriving DecidableEq, Repr

/-- Bit 7, the sign of a two's-complement byte (R171). -/
def bit7 (v : Byte) : Bool := v.getLsbD 7

/-- Bit 6. -/
def bit6 (v : Byte) : Bool := v.getLsbD 6

/-- Bit 0. -/
def bit0 (v : Byte) : Bool := v.getLsbD 0

/-- Add with carry (R172, R173): `t = a + m + cin` over the integers. -/
def aluAdd (a m : Byte) (cin : Bool) : AluOut :=
  let t : Nat := a.toNat + m.toNat + cin.toNat
  let r : Byte := BitVec.ofNat 8 t
  { r := r, c := decide (t > 0xFF), v := bit7 ((a ^^^ r) &&& (m ^^^ r)) }

/-- Subtract with borrow (R174, R175): `t = a - m - (1 - cin)` over the integers. -/
def aluSub (a m : Byte) (cin : Bool) : AluOut :=
  let t : Int := (a.toNat : Int) - (m.toNat : Int) - (1 - (cin.toNat : Int))
  let r : Byte := BitVec.ofInt 8 t
  { r := r, c := decide (t ≥ 0), v := bit7 ((a ^^^ m) &&& (a ^^^ r)) }

/-- Logical operations (R177). -/
def aluAnd (a m : Byte) : Byte := a &&& m
def aluOr (a m : Byte) : Byte := a ||| m
def aluXor (a m : Byte) : Byte := a ^^^ m

/-- Arithmetic shift left (R178). -/
def aluAsl (v : Byte) : ShiftOut := { r := v <<< 1, c := bit7 v }

/-- Logical shift right (R179). -/
def aluLsr (v : Byte) : ShiftOut := { r := v >>> 1, c := bit0 v }

/-- The carry as a byte, 0 or 1. -/
def carryByte (c : Bool) : Byte := if c then 1 else 0

/-- Rotate left through carry (R180). -/
def aluRol (v : Byte) (cin : Bool) : ShiftOut := { r := (v <<< 1) ||| carryByte cin, c := bit7 v }

/-- Rotate right through carry (R181). -/
def aluRor (v : Byte) (cin : Bool) : ShiftOut := { r := (v >>> 1) ||| (carryByte cin <<< 7), c := bit0 v }

/-- Unsigned compare (R182); there is no overflow output. -/
def aluCmp (reg m : Byte) : CmpOut :=
  { c := decide (m.toNat ≤ reg.toNat), z := decide (reg - m = 0), n := bit7 (reg - m) }

/-- Increment and decrement modulo 256 (R183). -/
def aluInc (v : Byte) : Byte := v + 1
def aluDec (v : Byte) : Byte := v - 1

/-- Bit test (R184): N and V come from the memory operand. -/
def aluBit (a m : Byte) : BitOut := { z := decide (a &&& m = 0), v := bit6 m, n := bit7 m }

end Sys2Proof.Machine
end

