-- ==== Sys2Proof/Machine/Flags.lean ====
section
/-! DEFINITION. The flag byte P (spec/10_state.md R36 to R44, R58): its eight bits by name, and every flag computation of
the instruction rules. The flag-setting functions work on the flag byte; Machine/Ops.lean lifts them to State. -/

namespace Sys2Proof.Machine

/-- The eight flags, in the order of their bits 0 to 7 (R36). -/
inductive Flag where
  | c | z | i | d | b | u | v | n
  deriving DecidableEq, Repr

/-- The bit of P that a flag is (R36). -/
def Flag.bit : Flag → Nat
  | .c => 0
  | .z => 1
  | .i => 2
  | .d => 3
  | .b => 4
  | .u => 5
  | .v => 6
  | .n => 7

/-- A flag of a flag byte, "a named boolean view over one bit" (R36). -/
def getFlag (p : Byte) (f : Flag) : Bool := p.getLsbD f.bit

/-- A flag byte with one flag written. -/
def putFlag (p : Byte) (f : Flag) (v : Bool) : Byte :=
  if v then p ||| ((1 : Byte) <<< f.bit) else p &&& ~~~((1 : Byte) <<< f.bit)

/-- The shared zero/negative helper `setNZ` (spec/41_alu.md R171). -/
def putNZ (p v : Byte) : Byte := putFlag (putFlag p .z (decide (v = 0))) .n (bit7 v)

/-- Carry from a shift, then zero and negative from its result (spec/43_arith_logic_shift.md R245 to R248). -/
def putCNZ (p : Byte) (o : ShiftOut) : Byte := putNZ (putFlag p .c o.c) o.r

/-- Carry and overflow, then zero and negative, of an addition or a subtraction (spec/43_arith_logic_shift.md
R230, R231). -/
def putArith (p : Byte) (o : AluOut) : Byte := putNZ (putFlag (putFlag p .c o.c) .v o.v) o.r

/-- Carry, zero and negative of a compare (spec/43_arith_logic_shift.md R235). -/
def putCmp (p : Byte) (o : CmpOut) : Byte := putFlag (putFlag (putFlag p .c o.c) .z o.z) .n o.n

/-- Zero, overflow and negative of a bit test (spec/43_arith_logic_shift.md R238). -/
def putBit (p : Byte) (o : BitOut) : Byte := putFlag (putFlag (putFlag p .z o.z) .v o.v) .n o.n

/-- The copy of P that PHP and BRK push: bits 4 and 5 set (spec/45_stack_flags_misc.md R302,
spec/44_control_flow.md R283). -/
def pushedBySoftware (p : Byte) : Byte := p ||| 0x30

/-- The copy of P that an interrupt entry pushes: bit 4 is `INT_PUSH_B`, bit 5 is 1 (spec/60_exceptions.md
R526). -/
def pushedByInterrupt (intPushB : Bool) (p : Byte) : Byte :=
  (p &&& 0xEF) ||| (carryByte intPushB <<< 4) ||| 0x20

/-- The flag byte that PLP and RTI load from a pulled byte: B cleared, bit 5 forced
(spec/45_stack_flags_misc.md R303, spec/44_control_flow.md R284). -/
def pulledFlags (v : Byte) : Byte := (v &&& 0xEF) ||| 0x20

end Sys2Proof.Machine
end

