-- ==== Sys2Proof/Syntax.lean ====
section
/-! DEFINITION. The instructions as syntax. One constructor of `Instr` per instruction of
spec/opcode_table.json; a row of the table is a constructor together with the form of its operand
(`Mode`), or, where several rows share both the mnemonic and the mode (the NOP, KIL and ANC rows), with the
number of the row among them. Machine/ gives the meanings; this file has none. -/

namespace Sys2Proof

/-- The thirteen addressing modes (spec/30_encoding.md R102). -/
inductive Mode where
  | imp | acc | imm | zp | zpx | zpy | abs | abx | aby | ind | izx | izy | rel
  deriving DecidableEq, Repr

/-- An operand: its mode with the operand byte or the operand word (spec/30_encoding.md R100, R103). A word
is the little-endian pair of operand bytes. -/
inductive Operand where
  /-- implied: none -/
  | imp
  /-- accumulator -/
  | acc
  /-- `#$nn` -/
  | imm (b : Byte)
  /-- `$nn` -/
  | zp (b : Byte)
  /-- `$nn,X` -/
  | zpx (b : Byte)
  /-- `$nn,Y` -/
  | zpy (b : Byte)
  /-- `$nnnn` -/
  | abs (w : Word)
  /-- `$nnnn,X` -/
  | abx (w : Word)
  /-- `$nnnn,Y` -/
  | aby (w : Word)
  /-- `($nnnn)` -/
  | ind (w : Word)
  /-- `($nn,X)` -/
  | izx (b : Byte)
  /-- `($nn),Y` -/
  | izy (b : Byte)
  /-- a branch's signed offset -/
  | rel (b : Byte)
  deriving DecidableEq, Repr

/-- The mode of an operand (spec/30_encoding.md R102). -/
def Operand.mode : Operand → Mode
  | .imp => .imp
  | .acc => .acc
  | .imm _ => .imm
  | .zp _ => .zp
  | .zpx _ => .zpx
  | .zpy _ => .zpy
  | .abs _ => .abs
  | .abx _ => .abx
  | .aby _ => .aby
  | .ind _ => .ind
  | .izx _ => .izx
  | .izy _ => .izy
  | .rel _ => .rel

/-- The instruction set (spec/30_encoding.md R104 to R110). An instruction with an `Operand` argument has one
row of the opcode table per mode that WellFormed.lean admits for it. -/
inductive Instr where
  -- loads, stores and transfers (spec/42_load_store_transfer.md)
  | lda (o : Operand)
  | ldx (o : Operand)
  | ldy (o : Operand)
  | sta (o : Operand)
  | stx (o : Operand)
  | sty (o : Operand)
  | tax
  | tay
  | txa
  | tya
  | tsx
  | txs
  -- arithmetic, logic, compare, increment and shift (spec/43_arith_logic_shift.md)
  | adc (o : Operand)
  | sbc (o : Operand)
  | and (o : Operand)
  | ora (o : Operand)
  | eor (o : Operand)
  | cmp (o : Operand)
  | cpx (o : Operand)
  | cpy (o : Operand)
  | bit (o : Operand)
  | inc (o : Operand)
  | dec (o : Operand)
  | inx
  | iny
  | dex
  | dey
  | asl (o : Operand)
  | lsr (o : Operand)
  | rol (o : Operand)
  | ror (o : Operand)
  -- control transfer (spec/44_control_flow.md)
  | bpl (d : Byte)
  | bmi (d : Byte)
  | bvc (d : Byte)
  | bvs (d : Byte)
  | bcc (d : Byte)
  | bcs (d : Byte)
  | bne (d : Byte)
  | beq (d : Byte)
  | jmp (o : Operand)
  | jsr (w : Word)
  | rts
  | brk
  | rti
  -- stack, flags and the documented NOP (spec/45_stack_flags_misc.md)
  | pha
  | pla
  | php
  | plp
  | clc
  | sec
  | cli
  | sei
  | clv
  | cld
  | sed
  | nop
  -- undocumented opcodes and lock-up (spec/46_undocumented.md)
  | slo (o : Operand)
  | rla (o : Operand)
  | sre (o : Operand)
  | rra (o : Operand)
  | dcp (o : Operand)
  | isc (o : Operand)
  | sax (o : Operand)
  | lax (o : Operand)
  /-- `$0B` (row 0) and `$2B` (row 1), R339 -/
  | anc (row : Fin 2) (b : Byte)
  | alr (b : Byte)
  | arr (b : Byte)
  | axs (b : Byte)
  | xaa (b : Byte)
  | ahx (o : Operand)
  | shx (w : Word)
  | shy (w : Word)
  | tas (w : Word)
  | las (w : Word)
  /-- `$EB`, the duplicate of SBC immediate, R349 -/
  | sbcDup (b : Byte)
  /-- `$1A $3A $5A $7A $DA $FA`, R350 -/
  | nopImp (row : Fin 6)
  /-- `$80 $82 $89 $C2 $E2`, R351 -/
  | nopImm (row : Fin 5) (b : Byte)
  /-- `$04 $44 $64`, R352 -/
  | nopZp (row : Fin 3) (b : Byte)
  /-- `$14 $34 $54 $74 $D4 $F4`, R352 -/
  | nopZpx (row : Fin 6) (b : Byte)
  /-- `$0C`, R352 -/
  | nopAbs (w : Word)
  /-- `$1C $3C $5C $7C $DC $FC`, R352 -/
  | nopAbx (row : Fin 6) (w : Word)
  /-- `$02 $12 $22 $32 $42 $52 $62 $72 $92 $B2 $D2 $F2`, R353 -/
  | kil (row : Fin 12)
  deriving DecidableEq, Repr

end Sys2Proof
end

