-- ==== Sys2Proof/WellFormed.lean ====
section
/-! DEFINITION. Which instructions exist: the addressing modes the opcode map gives each instruction
(spec/30_encoding.md R104, R106 to R108). Decoding gives well-formed instructions only, and every well-formed
instruction has exactly one row of spec/opcode_table.json. -/

namespace Sys2Proof

/-- The modes of ORA, AND, EOR, ADC, CMP, SBC and LDA (columns 1, 5, 9 and D of R104). -/
def aluModes : List Mode := [.imm, .zp, .zpx, .abs, .abx, .aby, .izx, .izy]

/-- The modes of ASL, ROL, LSR and ROR in R104. -/
def shiftModes : List Mode := [.acc, .zp, .zpx, .abs, .abx]

/-- The modes of INC and DEC in R104. -/
def incModes : List Mode := [.zp, .zpx, .abs, .abx]

/-- The modes of CPX and CPY in R104. -/
def compareModes : List Mode := [.imm, .zp, .abs]

/-- The modes of the six read-modify-write compositions (R107). -/
def composedModes : List Mode := [.izx, .zp, .abs, .izy, .zpx, .aby, .abx]

/-- The modes that R104 gives an instruction whose operand's mode is not fixed by its constructor; `none`
where it is. -/
def Instr.modes : Instr → Option (Operand × List Mode)
  | .lda o | .adc o | .sbc o | .and o | .ora o | .eor o | .cmp o => some (o, aluModes)
  | .sta o => some (o, [.zp, .zpx, .abs, .abx, .aby, .izx, .izy])
  | .ldx o => some (o, [.imm, .zp, .zpy, .abs, .aby])
  | .ldy o => some (o, [.imm, .zp, .zpx, .abs, .abx])
  | .stx o => some (o, [.zp, .zpy, .abs])
  | .sty o => some (o, [.zp, .zpx, .abs])
  | .cpx o | .cpy o => some (o, compareModes)
  | .bit o => some (o, [.zp, .abs])
  | .inc o | .dec o => some (o, incModes)
  | .asl o | .lsr o | .rol o | .ror o => some (o, shiftModes)
  | .jmp o => some (o, [.abs, .ind])
  | .slo o | .rla o | .sre o | .rra o | .dcp o | .isc o => some (o, composedModes)
  | .sax o => some (o, [.izx, .zp, .abs, .zpy])
  | .lax o => some (o, [.izx, .zp, .abs, .izy, .zpy, .aby, .imm])
  | .ahx o => some (o, [.izy, .aby])
  | .tax | .tay | .txa | .tya | .tsx | .txs | .inx | .iny | .dex | .dey
  | .bpl _ | .bmi _ | .bvc _ | .bvs _ | .bcc _ | .bcs _ | .bne _ | .beq _
  | .jsr _ | .rts | .brk | .rti | .pha | .pla | .php | .plp
  | .clc | .sec | .cli | .sei | .clv | .cld | .sed | .nop
  | .anc _ _ | .alr _ | .arr _ | .axs _ | .xaa _ | .shx _ | .shy _ | .tas _ | .las _ | .sbcDup _
  | .nopImp _ | .nopImm _ _ | .nopZp _ _ | .nopZpx _ _ | .nopAbs _ | .nopAbx _ _ | .kil _ => none

/-- An instruction is well formed when the opcode map has a cell for it with its operand's mode
(spec/30_encoding.md R104). -/
def Instr.wellFormed (i : Instr) : Bool :=
  match i.modes with
  | some (o, ms) => ms.contains o.mode
  | none => true

end Sys2Proof
end

