-- ==== Sys2Proof/Decode.lean ====
section
/-! DEFINITION. The decoder and the encoder (spec/30_encoding.md), the instruction descriptor of
spec/40_step_and_addressing.md R158 (mnemonic, operand, size, base cycles, page penalty), and the byte-order
helpers they use (spec/00_scope.md R10). Decoding an opcode is total (R105): no opcode byte is refused; only a
list of bytes that ends before the instruction does is. -/

namespace Sys2Proof

/-! ### Bytes of a word (spec/00_scope.md R10, spec/20_memory.md R74) -/

/-- `lo(w) = w[7:0]`. -/
def lo (w : Word) : Byte := w.extractLsb' 0 8

/-- `hi(w) = w[15:8]`. -/
def hi (w : Word) : Byte := w.extractLsb' 8 8

/-- `w16(h, l) = h * 256 + l`. -/
def w16 (h l : Byte) : Word := h ++ l

/-! ### The opcode map (spec/30_encoding.md R104), one cell per opcode byte

A cell builds the instruction from the two bytes that follow the opcode; a cell of a shorter format does not
look at the bytes it does not have (R103). -/

abbrev Cell := Byte → Byte → Instr

namespace Cell

/-- An instruction of one byte. -/
def imp (i : Instr) : Cell := fun _ _ => i
/-- An instruction of two bytes whose operand's mode is fixed by the instruction. -/
def byte (f : Byte → Instr) : Cell := fun b _ => f b
/-- An instruction of three bytes whose operand's mode is fixed by the instruction. -/
def word (f : Word → Instr) : Cell := fun b c => f (w16 c b)
def acc (f : Operand → Instr) : Cell := fun _ _ => f .acc
def imm (f : Operand → Instr) : Cell := fun b _ => f (.imm b)
def zp (f : Operand → Instr) : Cell := fun b _ => f (.zp b)
def zpx (f : Operand → Instr) : Cell := fun b _ => f (.zpx b)
def zpy (f : Operand → Instr) : Cell := fun b _ => f (.zpy b)
def abs (f : Operand → Instr) : Cell := fun b c => f (.abs (w16 c b))
def abx (f : Operand → Instr) : Cell := fun b c => f (.abx (w16 c b))
def aby (f : Operand → Instr) : Cell := fun b c => f (.aby (w16 c b))
def ind (f : Operand → Instr) : Cell := fun b c => f (.ind (w16 c b))
def izx (f : Operand → Instr) : Cell := fun b _ => f (.izx b)
def izy (f : Operand → Instr) : Cell := fun b _ => f (.izy b)

/-- Opcodes `$00` to `$0F`. -/
def mapRow0 : List Cell :=
  [imp .brk, izx .ora, imp (.kil 0), izx .slo, byte (.nopZp 0), zp .ora, zp .asl, zp .slo,
   imp .php, imm .ora, acc .asl, byte (.anc 0), word .nopAbs, abs .ora, abs .asl, abs .slo]

/-- Opcodes `$10` to `$1F`. -/
def mapRow1 : List Cell :=
  [byte .bpl, izy .ora, imp (.kil 1), izy .slo, byte (.nopZpx 0), zpx .ora, zpx .asl, zpx .slo,
   imp .clc, aby .ora, imp (.nopImp 0), aby .slo, word (.nopAbx 0), abx .ora, abx .asl, abx .slo]

/-- Opcodes `$20` to `$2F`. -/
def mapRow2 : List Cell :=
  [word .jsr, izx .and, imp (.kil 2), izx .rla, zp .bit, zp .and, zp .rol, zp .rla,
   imp .plp, imm .and, acc .rol, byte (.anc 1), abs .bit, abs .and, abs .rol, abs .rla]

/-- Opcodes `$30` to `$3F`. -/
def mapRow3 : List Cell :=
  [byte .bmi, izy .and, imp (.kil 3), izy .rla, byte (.nopZpx 1), zpx .and, zpx .rol, zpx .rla,
   imp .sec, aby .and, imp (.nopImp 1), aby .rla, word (.nopAbx 1), abx .and, abx .rol, abx .rla]

/-- Opcodes `$40` to `$4F`. -/
def mapRow4 : List Cell :=
  [imp .rti, izx .eor, imp (.kil 4), izx .sre, byte (.nopZp 1), zp .eor, zp .lsr, zp .sre,
   imp .pha, imm .eor, acc .lsr, byte .alr, abs .jmp, abs .eor, abs .lsr, abs .sre]

/-- Opcodes `$50` to `$5F`. -/
def mapRow5 : List Cell :=
  [byte .bvc, izy .eor, imp (.kil 5), izy .sre, byte (.nopZpx 2), zpx .eor, zpx .lsr, zpx .sre,
   imp .cli, aby .eor, imp (.nopImp 2), aby .sre, word (.nopAbx 2), abx .eor, abx .lsr, abx .sre]

/-- Opcodes `$60` to `$6F`. -/
def mapRow6 : List Cell :=
  [imp .rts, izx .adc, imp (.kil 6), izx .rra, byte (.nopZp 2), zp .adc, zp .ror, zp .rra,
   imp .pla, imm .adc, acc .ror, byte .arr, ind .jmp, abs .adc, abs .ror, abs .rra]

/-- Opcodes `$70` to `$7F`. -/
def mapRow7 : List Cell :=
  [byte .bvs, izy .adc, imp (.kil 7), izy .rra, byte (.nopZpx 3), zpx .adc, zpx .ror, zpx .rra,
   imp .sei, aby .adc, imp (.nopImp 3), aby .rra, word (.nopAbx 3), abx .adc, abx .ror, abx .rra]

/-- Opcodes `$80` to `$8F`. -/
def mapRow8 : List Cell :=
  [byte (.nopImm 0), izx .sta, byte (.nopImm 1), izx .sax, zp .sty, zp .sta, zp .stx, zp .sax,
   imp .dey, byte (.nopImm 2), imp .txa, byte .xaa, abs .sty, abs .sta, abs .stx, abs .sax]

/-- Opcodes `$90` to `$9F`. -/
def mapRow9 : List Cell :=
  [byte .bcc, izy .sta, imp (.kil 8), izy .ahx, zpx .sty, zpx .sta, zpy .stx, zpy .sax,
   imp .tya, aby .sta, imp .txs, word .tas, word .shy, abx .sta, word .shx, aby .ahx]

/-- Opcodes `$A0` to `$AF`. -/
def mapRowA : List Cell :=
  [imm .ldy, izx .lda, imm .ldx, izx .lax, zp .ldy, zp .lda, zp .ldx, zp .lax,
   imp .tay, imm .lda, imp .tax, imm .lax, abs .ldy, abs .lda, abs .ldx, abs .lax]

/-- Opcodes `$B0` to `$BF`. -/
def mapRowB : List Cell :=
  [byte .bcs, izy .lda, imp (.kil 9), izy .lax, zpx .ldy, zpx .lda, zpy .ldx, zpy .lax,
   imp .clv, aby .lda, imp .tsx, word .las, abx .ldy, abx .lda, aby .ldx, aby .lax]

/-- Opcodes `$C0` to `$CF`. -/
def mapRowC : List Cell :=
  [imm .cpy, izx .cmp, byte (.nopImm 3), izx .dcp, zp .cpy, zp .cmp, zp .dec, zp .dcp,
   imp .iny, imm .cmp, imp .dex, byte .axs, abs .cpy, abs .cmp, abs .dec, abs .dcp]

/-- Opcodes `$D0` to `$DF`. -/
def mapRowD : List Cell :=
  [byte .bne, izy .cmp, imp (.kil 10), izy .dcp, byte (.nopZpx 4), zpx .cmp, zpx .dec, zpx .dcp,
   imp .cld, aby .cmp, imp (.nopImp 4), aby .dcp, word (.nopAbx 4), abx .cmp, abx .dec, abx .dcp]

/-- Opcodes `$E0` to `$EF`. -/
def mapRowE : List Cell :=
  [imm .cpx, izx .sbc, byte (.nopImm 4), izx .isc, zp .cpx, zp .sbc, zp .inc, zp .isc,
   imp .inx, imm .sbc, imp .nop, byte .sbcDup, abs .cpx, abs .sbc, abs .inc, abs .isc]

/-- Opcodes `$F0` to `$FF`. -/
def mapRowF : List Cell :=
  [byte .beq, izy .sbc, imp (.kil 11), izy .isc, byte (.nopZpx 5), zpx .sbc, zpx .inc, zpx .isc,
   imp .sed, aby .sbc, imp (.nopImp 5), aby .isc, word (.nopAbx 5), abx .sbc, abx .inc, abx .isc]

/-- The whole map of R104, row by row. -/
def map : List (List Cell) :=
  [mapRow0, mapRow1, mapRow2, mapRow3, mapRow4, mapRow5, mapRow6, mapRow7] ++
  [mapRow8, mapRow9, mapRowA, mapRowB, mapRowC, mapRowD, mapRowE, mapRowF]

end Cell

/-- The instruction of an opcode byte and the two bytes that follow it: total, one row of the map for each of
the 256 opcode bytes (spec/30_encoding.md R105). -/
def decodeBytes (op b1 b2 : Byte) : Instr :=
  ((Cell.map.getD (op.toNat / 16) []).getD (op.toNat % 16) (Cell.imp .nop)) b1 b2

/-! ### The instruction descriptor (spec/40_step_and_addressing.md R158) -/

/-- How many operand bytes an operand has (spec/30_encoding.md R100, R101). -/
def Operand.length : Operand → Nat
  | .imp | .acc => 0
  | .imm _ | .zp _ | .zpx _ | .zpy _ | .izx _ | .izy _ | .rel _ => 1
  | .abs _ | .abx _ | .aby _ | .ind _ => 2

/-- The operand bytes, in the order in which they follow the opcode (spec/30_encoding.md R100, R103). -/
def Operand.bytes : Operand → List Byte
  | .imp | .acc => []
  | .imm b | .zp b | .zpx b | .zpy b | .izx b | .izy b | .rel b => [b]
  | .abs w | .abx w | .aby w | .ind w => [lo w, hi w]

/-- The operand of an instruction, its addressing mode with it. BRK is implied (spec/30_encoding.md R101). -/
def Instr.operand : Instr → Operand
  | .lda o | .ldx o | .ldy o | .sta o | .stx o | .sty o => o
  | .adc o | .sbc o | .and o | .ora o | .eor o | .cmp o | .cpx o | .cpy o | .bit o => o
  | .inc o | .dec o | .asl o | .lsr o | .rol o | .ror o | .jmp o => o
  | .slo o | .rla o | .sre o | .rra o | .dcp o | .isc o | .sax o | .lax o | .ahx o => o
  | .bpl d | .bmi d | .bvc d | .bvs d | .bcc d | .bcs d | .bne d | .beq d => .rel d
  | .anc _ b | .alr b | .arr b | .axs b | .xaa b | .sbcDup b | .nopImm _ b => .imm b
  | .jsr w | .nopAbs w => .abs w
  | .shx w | .tas w | .las w => .aby w
  | .shy w | .nopAbx _ w => .abx w
  | .nopZp _ b => .zp b
  | .nopZpx _ b => .zpx b
  | .tax | .tay | .txa | .tya | .tsx | .txs | .inx | .iny | .dex | .dey => .imp
  | .rts | .brk | .rti | .pha | .pla | .php | .plp => .imp
  | .clc | .sec | .cli | .sei | .clv | .cld | .sed | .nop | .nopImp _ | .kil _ => .imp

/-- The size in bytes, "determined solely by addressing mode" (spec/30_encoding.md R101). -/
def Instr.size (i : Instr) : Nat := 1 + i.operand.length

/-- The mnemonic, as spec/opcode_table.json spells it. -/
def Instr.mnemonic : Instr → String
  | .lda _ => "LDA" | .ldx _ => "LDX" | .ldy _ => "LDY" | .sta _ => "STA" | .stx _ => "STX"
  | .sty _ => "STY" | .tax => "TAX" | .tay => "TAY" | .txa => "TXA" | .tya => "TYA" | .tsx => "TSX"
  | .txs => "TXS" | .adc _ => "ADC" | .sbc _ => "SBC" | .sbcDup _ => "SBC" | .and _ => "AND"
  | .ora _ => "ORA" | .eor _ => "EOR" | .cmp _ => "CMP" | .cpx _ => "CPX" | .cpy _ => "CPY"
  | .bit _ => "BIT" | .inc _ => "INC" | .dec _ => "DEC" | .inx => "INX" | .iny => "INY"
  | .dex => "DEX" | .dey => "DEY" | .asl _ => "ASL" | .lsr _ => "LSR" | .rol _ => "ROL"
  | .ror _ => "ROR" | .bpl _ => "BPL" | .bmi _ => "BMI" | .bvc _ => "BVC" | .bvs _ => "BVS"
  | .bcc _ => "BCC" | .bcs _ => "BCS" | .bne _ => "BNE" | .beq _ => "BEQ" | .jmp _ => "JMP"
  | .jsr _ => "JSR" | .rts => "RTS" | .brk => "BRK" | .rti => "RTI" | .pha => "PHA" | .pla => "PLA"
  | .php => "PHP" | .plp => "PLP" | .clc => "CLC" | .sec => "SEC" | .cli => "CLI" | .sei => "SEI"
  | .clv => "CLV" | .cld => "CLD" | .sed => "SED" | .nop => "NOP" | .nopImp _ => "NOP"
  | .nopImm _ _ => "NOP" | .nopZp _ _ => "NOP" | .nopZpx _ _ => "NOP" | .nopAbs _ => "NOP"
  | .nopAbx _ _ => "NOP" | .slo _ => "SLO" | .rla _ => "RLA" | .sre _ => "SRE" | .rra _ => "RRA"
  | .dcp _ => "DCP" | .isc _ => "ISC" | .sax _ => "SAX" | .lax _ => "LAX" | .anc _ _ => "ANC"
  | .alr _ => "ALR" | .arr _ => "ARR" | .axs _ => "AXS" | .xaa _ => "XAA" | .ahx _ => "AHX"
  | .shx _ => "SHX" | .shy _ => "SHY" | .tas _ => "TAS" | .las _ => "LAS" | .kil _ => "KIL"

/-- Base cost of an instruction that reads its operand (field `cycles` of spec/opcode_table.json). -/
def Mode.readCycles : Mode → Nat
  | .imp | .acc | .imm | .rel => 2
  | .zp => 3
  | .zpx | .zpy | .abs | .abx | .aby => 4
  | .izy | .ind => 5
  | .izx => 6

/-- Base cost of an instruction that stores a byte: the indexed forms include their fixed extra cycle
(spec/40_step_and_addressing.md R155, spec/42_load_store_transfer.md R203). -/
def Mode.storeCycles : Mode → Nat
  | .imp | .acc | .imm | .rel => 2
  | .zp => 3
  | .zpx | .zpy | .abs => 4
  | .abx | .aby | .ind => 5
  | .izx | .izy => 6

/-- Base cost of a shift, an increment, a decrement or a read-modify-write composition
(spec/46_undocumented.md R330, field `cycles` of spec/opcode_table.json). -/
def Mode.modifyCycles : Mode → Nat
  | .imp | .acc | .imm | .rel => 2
  | .zp => 5
  | .zpx | .zpy | .abs => 6
  | .abx | .aby | .ind => 7
  | .izx | .izy => 8

/-- The declared base cycle cost (spec/40_step_and_addressing.md R158, field `cycles` of
spec/opcode_table.json). -/
def Instr.baseCycles : Instr → Nat
  | .lda o | .ldx o | .ldy o | .adc o | .sbc o | .and o | .ora o | .eor o | .cmp o | .cpx o | .cpy o
  | .bit o | .lax o => o.mode.readCycles
  | .sta o | .stx o | .sty o | .sax o | .ahx o => o.mode.storeCycles
  | .inc o | .dec o | .asl o | .lsr o | .rol o | .ror o
  | .slo o | .rla o | .sre o | .rra o | .dcp o | .isc o => o.mode.modifyCycles
  | .jmp o => match o.mode with | .ind => 5 | _ => 3
  | .jsr _ | .rts | .rti => 6
  | .brk => 7
  | .pha | .php => 3
  | .pla | .plp => 4
  | .shx _ | .shy _ | .tas _ => 5
  | .las _ | .nopAbs _ | .nopAbx _ _ | .nopZpx _ _ => 4
  | .nopZp _ _ => 3
  | .bpl _ | .bmi _ | .bvc _ | .bvs _ | .bcc _ | .bcs _ | .bne _ | .beq _ => 2
  | .anc _ _ | .alr _ | .arr _ | .axs _ | .xaa _ | .sbcDup _ | .nopImm _ _ => 2
  | .tax | .tay | .txa | .tya | .tsx | .txs | .inx | .iny | .dex | .dey => 2
  | .clc | .sec | .cli | .sei | .clv | .cld | .sed | .nop | .nopImp _ | .kil _ => 2

/-- The three modes that can report a page crossing (spec/40_step_and_addressing.md R154). -/
def Mode.mayCross : Mode → Bool
  | .abx | .aby | .izy => true
  | .imp | .acc | .imm | .zp | .zpx | .zpy | .abs | .ind | .izx | .rel => false

/-- The declared page penalty (spec/40_step_and_addressing.md R155, field `page_penalty` of
spec/opcode_table.json): 1 for the reading instructions in the modes abx, aby and izy, for LAX, LAS and the abx
NOPs; 0 for every other row. -/
def Instr.pagePenalty : Instr → Bool
  | .lda o | .ldx o | .ldy o | .adc o | .sbc o | .and o | .ora o | .eor o | .cmp o | .lax o =>
    o.mode.mayCross
  | .las _ | .nopAbx _ _ => true
  | .cpx _ | .cpy _ | .bit _ | .sta _ | .stx _ | .sty _ | .sax _ | .ahx _ => false
  | .inc _ | .dec _ | .asl _ | .lsr _ | .rol _ | .ror _ | .jmp _ | .jsr _ => false
  | .slo _ | .rla _ | .sre _ | .rra _ | .dcp _ | .isc _ | .shx _ | .shy _ | .tas _ => false
  | .bpl _ | .bmi _ | .bvc _ | .bvs _ | .bcc _ | .bcs _ | .bne _ | .beq _ => false
  | .anc _ _ | .alr _ | .arr _ | .axs _ | .xaa _ | .sbcDup _ | .nopImm _ _ | .nopZp _ _ => false
  | .nopZpx _ _ | .nopAbs _ | .tax | .tay | .txa | .tya | .tsx | .txs | .inx | .iny => false
  | .dex | .dey | .rts | .brk | .rti | .pha | .pla | .php | .plp | .clc | .sec | .cli | .sei => false
  | .clv | .cld | .sed | .nop | .nopImp _ | .kil _ => false

/-! ### Decoding a list of bytes -/

/-- Why a list of bytes holds no instruction. Every opcode byte decodes (R105), so the only reason is that
the list is too short. -/
inductive DecodeError where
  /-- The list is empty: there is no opcode byte. -/
  | noOpcode
  /-- The list ends before the operand bytes that the opcode's format has (R100). -/
  | operandMissing
  deriving DecidableEq, Repr

/-- The instruction at the head of a list of bytes, with the rest of the list. -/
def decode : List Byte → Except DecodeError (Instr × List Byte)
  | [] => .error .noOpcode
  | op :: rest =>
    let i := decodeBytes op (rest.getD 0 0) (rest.getD 1 0)
    if i.operand.length ≤ rest.length then .ok (i, rest.drop i.operand.length)
    else .error .operandMissing

/-- The bytes of an instruction word whose bits are numbered as spec/opcode_table.json numbers them: the first
byte is bits 7:0, the second bits 15:8, the third bits 23:16; bits from `nbits` on are 0. -/
def tableWordByte (nbits w k : Nat) : Byte := BitVec.ofNat 8 (w % 2 ^ nbits / 2 ^ (8 * k))

/-- The instruction the decoder reads from a word of spec/opcode_table.json. -/
def decodeTableWord (nbits w : Nat) : Option Instr :=
  match decode [tableWordByte nbits w 0, tableWordByte nbits w 1, tableWordByte nbits w 2] with
  | .ok (i, _) => some i
  | .error _ => none

/-! ### Encoding -/

/-- The opcode that a list of (mode, opcode) pairs gives an operand. -/
def rowOf (o : Operand) (rows : List (Mode × Byte)) : Option Byte := rows.lookup o.mode

/-- The opcode byte of an instruction (spec/30_encoding.md R104 and the opcode lists of files 42 to 46);
`none` where the opcode map has no cell for it. -/
def Instr.opcode : Instr → Option Byte
  | .lda o => rowOf o [(.izx, 0xA1), (.zp, 0xA5), (.imm, 0xA9), (.abs, 0xAD),
      (.izy, 0xB1), (.zpx, 0xB5), (.aby, 0xB9), (.abx, 0xBD)]
  | .ldx o => rowOf o [(.imm, 0xA2), (.zp, 0xA6), (.abs, 0xAE), (.zpy, 0xB6), (.aby, 0xBE)]
  | .ldy o => rowOf o [(.imm, 0xA0), (.zp, 0xA4), (.abs, 0xAC), (.zpx, 0xB4), (.abx, 0xBC)]
  | .sta o => rowOf o [(.izx, 0x81), (.zp, 0x85), (.abs, 0x8D), (.izy, 0x91),
      (.zpx, 0x95), (.aby, 0x99), (.abx, 0x9D)]
  | .stx o => rowOf o [(.zp, 0x86), (.abs, 0x8E), (.zpy, 0x96)]
  | .sty o => rowOf o [(.zp, 0x84), (.abs, 0x8C), (.zpx, 0x94)]
  | .adc o => rowOf o [(.izx, 0x61), (.zp, 0x65), (.imm, 0x69), (.abs, 0x6D),
      (.izy, 0x71), (.zpx, 0x75), (.aby, 0x79), (.abx, 0x7D)]
  | .sbc o => rowOf o [(.izx, 0xE1), (.zp, 0xE5), (.imm, 0xE9), (.abs, 0xED),
      (.izy, 0xF1), (.zpx, 0xF5), (.aby, 0xF9), (.abx, 0xFD)]
  | .and o => rowOf o [(.izx, 0x21), (.zp, 0x25), (.imm, 0x29), (.abs, 0x2D),
      (.izy, 0x31), (.zpx, 0x35), (.aby, 0x39), (.abx, 0x3D)]
  | .ora o => rowOf o [(.izx, 0x01), (.zp, 0x05), (.imm, 0x09), (.abs, 0x0D),
      (.izy, 0x11), (.zpx, 0x15), (.aby, 0x19), (.abx, 0x1D)]
  | .eor o => rowOf o [(.izx, 0x41), (.zp, 0x45), (.imm, 0x49), (.abs, 0x4D),
      (.izy, 0x51), (.zpx, 0x55), (.aby, 0x59), (.abx, 0x5D)]
  | .cmp o => rowOf o [(.izx, 0xC1), (.zp, 0xC5), (.imm, 0xC9), (.abs, 0xCD),
      (.izy, 0xD1), (.zpx, 0xD5), (.aby, 0xD9), (.abx, 0xDD)]
  | .cpx o => rowOf o [(.imm, 0xE0), (.zp, 0xE4), (.abs, 0xEC)]
  | .cpy o => rowOf o [(.imm, 0xC0), (.zp, 0xC4), (.abs, 0xCC)]
  | .bit o => rowOf o [(.zp, 0x24), (.abs, 0x2C)]
  | .inc o => rowOf o [(.zp, 0xE6), (.abs, 0xEE), (.zpx, 0xF6), (.abx, 0xFE)]
  | .dec o => rowOf o [(.zp, 0xC6), (.abs, 0xCE), (.zpx, 0xD6), (.abx, 0xDE)]
  | .asl o => rowOf o [(.zp, 0x06), (.acc, 0x0A), (.abs, 0x0E), (.zpx, 0x16), (.abx, 0x1E)]
  | .lsr o => rowOf o [(.zp, 0x46), (.acc, 0x4A), (.abs, 0x4E), (.zpx, 0x56), (.abx, 0x5E)]
  | .rol o => rowOf o [(.zp, 0x26), (.acc, 0x2A), (.abs, 0x2E), (.zpx, 0x36), (.abx, 0x3E)]
  | .ror o => rowOf o [(.zp, 0x66), (.acc, 0x6A), (.abs, 0x6E), (.zpx, 0x76), (.abx, 0x7E)]
  | .jmp o => rowOf o [(.abs, 0x4C), (.ind, 0x6C)]
  | .slo o => rowOf o [(.izx, 0x03), (.zp, 0x07), (.abs, 0x0F), (.izy, 0x13),
      (.zpx, 0x17), (.aby, 0x1B), (.abx, 0x1F)]
  | .rla o => rowOf o [(.izx, 0x23), (.zp, 0x27), (.abs, 0x2F), (.izy, 0x33),
      (.zpx, 0x37), (.aby, 0x3B), (.abx, 0x3F)]
  | .sre o => rowOf o [(.izx, 0x43), (.zp, 0x47), (.abs, 0x4F), (.izy, 0x53),
      (.zpx, 0x57), (.aby, 0x5B), (.abx, 0x5F)]
  | .rra o => rowOf o [(.izx, 0x63), (.zp, 0x67), (.abs, 0x6F), (.izy, 0x73),
      (.zpx, 0x77), (.aby, 0x7B), (.abx, 0x7F)]
  | .dcp o => rowOf o [(.izx, 0xC3), (.zp, 0xC7), (.abs, 0xCF), (.izy, 0xD3),
      (.zpx, 0xD7), (.aby, 0xDB), (.abx, 0xDF)]
  | .isc o => rowOf o [(.izx, 0xE3), (.zp, 0xE7), (.abs, 0xEF), (.izy, 0xF3),
      (.zpx, 0xF7), (.aby, 0xFB), (.abx, 0xFF)]
  | .sax o => rowOf o [(.izx, 0x83), (.zp, 0x87), (.abs, 0x8F), (.zpy, 0x97)]
  | .lax o => rowOf o [(.izx, 0xA3), (.zp, 0xA7), (.imm, 0xAB), (.abs, 0xAF),
      (.izy, 0xB3), (.zpy, 0xB7), (.aby, 0xBF)]
  | .ahx o => rowOf o [(.izy, 0x93), (.aby, 0x9F)]
  | .tax => some 0xAA
  | .tay => some 0xA8
  | .txa => some 0x8A
  | .tya => some 0x98
  | .tsx => some 0xBA
  | .txs => some 0x9A
  | .inx => some 0xE8
  | .iny => some 0xC8
  | .dex => some 0xCA
  | .dey => some 0x88
  | .rts => some 0x60
  | .brk => some 0x00
  | .rti => some 0x40
  | .pha => some 0x48
  | .pla => some 0x68
  | .php => some 0x08
  | .plp => some 0x28
  | .clc => some 0x18
  | .sec => some 0x38
  | .cli => some 0x58
  | .sei => some 0x78
  | .clv => some 0xB8
  | .cld => some 0xD8
  | .sed => some 0xF8
  | .nop => some 0xEA
  | .bpl _ => some 0x10
  | .bmi _ => some 0x30
  | .bvc _ => some 0x50
  | .bvs _ => some 0x70
  | .bcc _ => some 0x90
  | .bcs _ => some 0xB0
  | .bne _ => some 0xD0
  | .beq _ => some 0xF0
  | .jsr _ => some 0x20
  | .alr _ => some 0x4B
  | .arr _ => some 0x6B
  | .axs _ => some 0xCB
  | .xaa _ => some 0x8B
  | .shx _ => some 0x9E
  | .shy _ => some 0x9C
  | .tas _ => some 0x9B
  | .las _ => some 0xBB
  | .sbcDup _ => some 0xEB
  | .nopAbs _ => some 0x0C
  | .anc r _ => [0x0B, 0x2B][r.val]?
  | .nopImp r => [0x1A, 0x3A, 0x5A, 0x7A, 0xDA, 0xFA][r.val]?
  | .nopImm r _ => [0x80, 0x82, 0x89, 0xC2, 0xE2][r.val]?
  | .nopZp r _ => [0x04, 0x44, 0x64][r.val]?
  | .nopZpx r _ => [0x14, 0x34, 0x54, 0x74, 0xD4, 0xF4][r.val]?
  | .nopAbx r _ => [0x1C, 0x3C, 0x5C, 0x7C, 0xDC, 0xFC][r.val]?
  | .kil r => [0x02, 0x12, 0x22, 0x32, 0x42, 0x52, 0x62, 0x72, 0x92, 0xB2, 0xD2, 0xF2][r.val]?

/-- The bytes of a well-formed instruction, the opcode first (spec/30_encoding.md R100); an instruction that
is not well formed has none. -/
def encode (i : Instr) : List Byte :=
  match i.opcode with
  | some op => op :: i.operand.bytes
  | none => []

end Sys2Proof
end

