-- ==== Sys2Proof/Machine/Memory.lean ====
section
/-! DEFINITION. Sparse memory in canonical form: reading, writing, and the form itself. The RAM of the bus and the
arrays of the cartridge all use it (spec/20_memory.md R85: a read returns the most recent write). -/

namespace Sys2Proof.Machine

/-- DESIGN CHOICE (notes 2). What an address that is not listed reads as: power-on RAM, the save-RAM after a load
(spec/50_cartridge.md R391) and a synthesized character bank (R389) are zero. -/
def Memory.unlisted : Byte := 0

/-- The byte at an address. -/
def Memory.read : Memory → Nat → Byte
  | [], _ => Memory.unlisted
  | (b, u) :: m, a => if b = a then u else Memory.read m a

/-- The memory without any entry for an address. -/
def Memory.erase : Memory → Nat → Memory
  | [], _ => []
  | (b, u) :: m, a => if b = a then Memory.erase m a else (b, u) :: Memory.erase m a

/-- The memory with an entry put in its place among rising addresses. -/
def Memory.insert : Memory → Nat → Byte → Memory
  | [], a, v => [(a, v)]
  | (b, u) :: m, a, v => if a < b then (a, v) :: (b, u) :: m else (b, u) :: Memory.insert m a v

/-- Storing a byte. Writing what an unlisted address reads as removes the entry, so equal memories are equal
data. -/
def Memory.write (m : Memory) (a : Nat) (v : Byte) : Memory :=
  if v = Memory.unlisted then m.erase a else (m.erase a).insert a v

/-- The canonical form: addresses strictly rising, no byte listed that an unlisted address reads as. -/
def Memory.wf : Memory → Bool
  | [] => true
  | [(_, u)] => u != Memory.unlisted
  | (b, u) :: (c, v) :: m => u != Memory.unlisted && b < c && Memory.wf ((c, v) :: m)

/-- Every listed address lies below n: the memory fits an array of n bytes. -/
def Memory.fits (m : Memory) (n : Nat) : Bool := m.all fun c => c.1 < n

/-- The memory whose bytes from address `a` on are those of a list. -/
def Memory.ofBytes : List Byte → Nat → Memory
  | [], _ => []
  | v :: vs, a =>
    if v = Memory.unlisted then Memory.ofBytes vs (a + 1) else (a, v) :: Memory.ofBytes vs (a + 1)

/-- The `n` bytes from address `a` on, as a list. -/
def Memory.toBytes (m : Memory) (a : Nat) : Nat → List Byte
  | 0 => []
  | n + 1 => m.read a :: Memory.toBytes m (a + 1) n

end Sys2Proof.Machine
end

