-- ==== Sys2Proof/Machine/Mapper.lean ====
section
/-! DEFINITION. The `cartridge_mapper_mux` (spec/51_mapper_common.md, spec/52_mapper_boards.md): address decode, bank
translation, the three boards, mirroring, the scanline counter, the two embeddable register components, and the
notifications. Each operation answers the new cartridge and the events it emits; Machine/Ops.lean delivers them to the
processor. Reads never change mapper state (R429). -/

namespace Sys2Proof.Machine

/-! ### Bank translation -/

/-- `count(arr, k)` (R416). -/
def bankCount (len k : Nat) : Nat := len / k

/-- `bankIndex(b, n) = b mod n` with the non-negative modulo, so that -1 is the last bank (R417). -/
def bankIndex (b : Int) (n : Nat) : Nat := (b % (n : Int)).toNat

/-- The offset into an array of `len` bytes of the byte `within` a window of `k` bytes that shows bank `b`
(R417). -/
def windowOffset (b : Int) (len k within : Nat) : Nat := bankIndex b (bankCount len k) * k + within

/-! ### MMC1-class board -/

/-- PRG mode, bits 3:2 of `control` (R462). -/
def Mmc1.prgMode (m : Mmc1) : BitVec 2 := m.control.extractLsb' 2 2

/-- CHR mode, bit 4 of `control` (R462). -/
def Mmc1.chrMode (m : Mmc1) : Bool := m.control.getLsbD 4

/-- The mirroring that `control` selects, bits 1:0 (R462). -/
def Mmc1.mirroring (m : Mmc1) : Mirroring :=
  match (m.control.extractLsb' 0 2).toNat with
  | 0 => .singleScreen0
  | 1 => .singleScreen1
  | 2 => .vertical
  | _ => .horizontal

/-- Which register the fifth write loads, bits 14:13 of its address (R461). -/
def Mmc1.selector (a : Word) : BitVec 2 := a.extractLsb' 13 2

/-- The write with bit 7 set: it discards the received bits and selects PRG mode 3 (R461, R466). -/
def Mmc1.resetWrite (m : Mmc1) : Mmc1 := { m with shift := 0, count := 0, control := m.control ||| 0x0C }

/-- The shift register with one more bit received, least significant bit first (R461). -/
def Mmc1.received (m : Mmc1) (v : Byte) : BitVec 5 := m.shift ||| ((if v.getLsbD 0 then 1 else 0) <<< m.count)

/-- Whether a write completes a load of `control` (R461). -/
def Mmc1.loadsControl (m : Mmc1) (a : Word) (v : Byte) : Bool :=
  !v.getLsbD 7 && m.count + 1 == 5 && Mmc1.selector a == 0

/-- Dispatch of the five received bits to the register that the address selects (R461). -/
def Mmc1.load (m : Mmc1) (sel : BitVec 2) (value : BitVec 5) : Mmc1 :=
  match sel.toNat with
  | 0 => { m with control := value, shift := 0, count := 0 }
  | 1 => { m with chr0 := value, shift := 0, count := 0 }
  | 2 => { m with chr1 := value, shift := 0, count := 0 }
  | _ => { m with prgReg := value, shift := 0, count := 0 }

/-- Register write of the MMC1-class board (R461). A write right after another is not ignored (D19). -/
def Mmc1.write (m : Mmc1) (a : Word) (v : Byte) : Mmc1 :=
  if v.getLsbD 7 then m.resetWrite
  else if m.count + 1 = 5 then m.load (Mmc1.selector a) (m.received v)
  else { m with shift := m.received v, count := m.count + 1 }

/-- PRG translation in two 16 KiB windows (R463): `prgReg` bits 3:0, bit 4 ignored. -/
def Mmc1.prgBank (m : Mmc1) (slot : Nat) : Int :=
  let p : Nat := (m.prgReg &&& 0x0F).toNat
  let even : Nat := (m.prgReg &&& 0x0E).toNat
  match m.prgMode.toNat with
  | 2 => if slot = 0 then 0 else p
  | 3 => if slot = 0 then p else -1
  | _ => if slot = 0 then even else even + 1

/-- CHR translation in two 4 KiB windows (R464). -/
def Mmc1.chrBank (m : Mmc1) (slot : Nat) : Int :=
  if m.chrMode then (if slot = 0 then m.chr0.toNat else m.chr1.toNat)
  else (if slot = 0 then (m.chr0 &&& 0x1E).toNat else ((m.chr0 &&& 0x1E) ||| 1).toNat)

/-! ### MMC3-class board -/

/-- The register a write selects, `a & 0xE001`, as address bits 14:13 and bit 0 (R481). -/
def Mmc3.selector (a : Word) : Nat × Bool := ((a.extractLsb' 13 2).toNat, a.getLsbD 0)

/-- `target`, bits 2:0 of `bankSelect` (R482). -/
def Mmc3.target (m : Mmc3) : Nat := (m.bankSelect &&& 0x07).toNat

/-- `prgMode`, bit 6 of `bankSelect` (R482). -/
def Mmc3.prgMode (m : Mmc3) : Bool := m.bankSelect.getLsbD 6

/-- `chrMode`, bit 7 of `bankSelect` (R482). -/
def Mmc3.chrMode (m : Mmc3) : Bool := m.bankSelect.getLsbD 7

/-- Register write of the MMC3-class board (R481 to R483, R487, R488), with the events it emits. Mirroring is the
cartridge's (`Mmc3.mirroringWrite`); `$A001` is ignored (R486). -/
def Mmc3.write (m : Mmc3) (a : Word) (v : Byte) : Mmc3 × List BusEvent :=
  match Mmc3.selector a with
  | (0, false) => ({ m with bankSelect := v }, [])
  | (0, true)  => ({ m with bank := m.bank.setIfInBounds m.target v }, [])
  | (2, false) => ({ m with irqLatch := v }, [])
  | (2, true)  => ({ m with irqCounter := 0, irqReload := true }, [])
  | (3, false) => ({ m with irqEnable := false }, [.irqAck])
  | (3, true)  => ({ m with irqEnable := true }, [])
  | _          => (m, [])

/-- The mirroring after a write: `$A000` selects it by bit 0, unless the header selected four-screen (R486). -/
def Mmc3.mirroringWrite (initial now : Mirroring) (a : Word) (v : Byte) : Mirroring :=
  if Mmc3.selector a = (1, false) ∧ initial ≠ .fourScreen then
    (if v.getLsbD 0 then .horizontal else .vertical)
  else now

/-- PRG translation in four 8 KiB windows (R484): R6 and R7 use bits 5:0 (R483). -/
def Mmc3.prgBank (m : Mmc3) (slot : Nat) : Int :=
  let r6 : Nat := (m.bank[6] &&& 0x3F).toNat
  let r7 : Nat := (m.bank[7] &&& 0x3F).toNat
  match slot with
  | 0 => if m.prgMode then -2 else r6
  | 1 => r7
  | 2 => if m.prgMode then r6 else -2
  | _ => -1

/-- CHR translation in eight 1 KiB windows (R485): the CHR mode swaps the two halves; R0 and R1 ignore bit 0
(R483). -/
def Mmc3.chrBank (m : Mmc3) (slot : Nat) : Int :=
  match (if m.chrMode then (slot + 4) % 8 else slot) with
  | 0 => (m.bank[0] &&& 0xFE).toNat
  | 1 => (m.bank[0] ||| 0x01).toNat
  | 2 => (m.bank[1] &&& 0xFE).toNat
  | 3 => (m.bank[1] ||| 0x01).toNat
  | 4 => m.bank[2].toNat
  | 5 => m.bank[3].toNat
  | 6 => m.bank[4].toNat
  | _ => m.bank[5].toNat

/-- The counter after a reload and the reload flag cleared (R490). -/
def Mmc3.reload (m : Mmc3) : Mmc3 := { m with irqCounter := m.irqLatch, irqReload := false }

/-- The counter's value at one clock (R490), in the two modes of `MMC3_IRQ_MODE`. -/
def Mmc3.counted (mode : Mmc3IrqMode) (m : Mmc3) : Mmc3 :=
  let reloads : Bool := m.irqCounter == 0 || m.irqReload
  match mode with
  | .source =>
    let m1 := if reloads then m.reload else m
    if m1.irqCounter = 0 then m1 else { m1 with irqCounter := m1.irqCounter - 1 }
  | .hardware => if reloads then m.reload else { m with irqCounter := m.irqCounter - 1 }

/-- One clock of the scanline counter (R490), with its events: it counts whether enabled or not, and requests an
interrupt only when enabled. -/
def Mmc3.clock (mode : Mmc3IrqMode) (m : Mmc3) : Mmc3 × List BusEvent :=
  let m1 := m.counted mode
  (m1, if m1.irqCounter = 0 ∧ m1.irqEnable = true then [.irq] else [])

/-- Whether a video step clocks the scanline counter (R489). -/
def videoQualifies (irqCycle scanline cycle : Int) (showBackground showSprites : Bool) : Bool :=
  cycle == irqCycle && decide (0 ≤ scanline) && decide (scanline ≤ 239) && (showBackground || showSprites)

/-! ### The board behind the mapper interface -/

/-- The size of a PRG window of the board (R451, R463, R484). -/
def Board.prgWindow : Board → Nat
  | .nrom => 16384
  | .mmc1 _ => 16384
  | .mmc3 _ => 8192

/-- The size of a CHR window of the board (R452, R464, R485). -/
def Board.chrWindow : Board → Nat
  | .nrom => 8192
  | .mmc1 _ => 4096
  | .mmc3 _ => 1024

/-- The bank that a PRG window shows, before the modulo (R451, R463, R484). -/
def Board.prgBank : Board → Nat → Int
  | .nrom, slot => slot
  | .mmc1 m, slot => m.prgBank slot
  | .mmc3 m, slot => m.prgBank slot

/-- The bank that a CHR window shows, before the modulo (R452, R464, R485). -/
def Board.chrBank : Board → Nat → Int
  | .nrom, _ => 0
  | .mmc1 m, slot => m.chrBank slot
  | .mmc3 m, slot => m.chrBank slot

/-- The board's identifier, for diagnostics only (R430). -/
def Board.name : Board → String
  | .nrom => "NROM"
  | .mmc1 _ => "MMC1"
  | .mmc3 _ => "MMC3"

/-- `prgOffset(a)` for an address from `$8000` on (R413, R417). -/
def Cartridge.prgOffset (c : Cartridge) (a : Nat) : Nat :=
  let k := c.board.prgWindow
  windowOffset (c.board.prgBank ((a - 0x8000) / k)) c.prgLen k ((a - 0x8000) % k)

/-- `chrOffset(a)` for an address below `$2000` (R411, R417). -/
def Cartridge.chrOffset (c : Cartridge) (a : Nat) : Nat :=
  let k := c.board.chrWindow
  windowOffset (c.board.chrBank (a / k)) c.chrLen k (a % k)

/-- The mapper's indexed byte read (R411 to R413, R415). The range `$2000-$5FFF` is open bus. -/
def Cartridge.read (c : Cartridge) (a : Word) : Byte :=
  if a.toNat < 0x2000 then c.chr.read (c.chrOffset a.toNat)
  else if a.toNat < 0x6000 then hi a
  else if a.toNat < 0x8000 then c.saveRam.read (a.toNat - 0x6000)
  else c.prg.read (c.prgOffset a.toNat)

/-! ### The embeddable register components -/

/-- The register selector of the cycle-based IRQ boards (R427). -/
def cycleIrqSelector (swap : Bool) (a : Word) : BitVec 2 :=
  if swap then (if a.getLsbD 0 then 2 else 0) ||| (if a.getLsbD 1 then 1 else 0) else a.extractLsb' 0 2

/-- The operation that `CYCLE_IRQ_REGMAP` gives a write address, if any (R427). -/
def cycleIrqOpAt (cfg : Config) (a : Word) : Option CycleIrqOp :=
  (cfg.cycleIrqRegMap.find? fun r =>
    r.page == a.extractLsb' 12 4 && r.sel == cycleIrqSelector cfg.cycleIrqA01Swap a).map (·.op)

/-- The register operations of the cycle-based IRQ generator (R426). -/
def CycleIrq.operate (g : CycleIrq) (op : CycleIrqOp) (v : Byte) : CycleIrq × List BusEvent :=
  match op with
  | .setLatch => ({ g with latch := v }, [])
  | .setControl => ({ g with enabled := v.getLsbD 0, prescaler := 0, counter := g.latch }, [.irqAck])
  | .acknowledge => (g, [.irqAck])

/-- One CPU cycle of the cycle-based IRQ generator (R426). -/
def CycleIrq.tick (divide : Nat) (g : CycleIrq) : CycleIrq × List BusEvent :=
  if g.prescaler + 1 = divide then
    if g.counter = 0 then ({ g with prescaler := 0, counter := g.latch }, if g.enabled then [.irq] else [])
    else ({ g with prescaler := 0, counter := g.counter - 1 }, [])
  else ({ g with prescaler := g.prescaler + 1 }, [])

/-- `n` CPU cycles (R426). -/
def CycleIrq.ticks (divide : Nat) (g : CycleIrq) : Nat → CycleIrq × List BusEvent
  | 0 => (g, [])
  | n + 1 =>
    let first := g.tick divide
    let rest := CycleIrq.ticks divide first.1 n
    (rest.1, first.2 ++ rest.2)

/-- A write to the low address of slot `j`: it stores the pending low nybble and shows nothing (R428). -/
def NybbleRegs.writeLow (r : NybbleRegs) (j : Nat) (v : Byte) : NybbleRegs :=
  { r with pendLo := r.pendLo.setIfInBounds j (v.extractLsb' 0 4) }

/-- A write to the high address of slot `j`: it commits the merged byte (R428). -/
def NybbleRegs.writeHigh (r : NybbleRegs) (j : Nat) (v : Byte) : NybbleRegs :=
  let merged : Byte := v.extractLsb' 0 4 ++ r.pendLo[j]?.getD 0
  if j < 4 then { r with prgSlot := r.prgSlot.setIfInBounds j merged }
  else { r with chrSlot := r.chrSlot.setIfInBounds (j - 4) merged }

/-- A write seen by the nybble-latched registers: the slots from `j` on are those of a tail of `NYBBLE_REGMAP`. DESIGN CHOICE
(notes 3): a write to an entry whose low and high address coincide is its low write only; R428 gives both effects. -/
def NybbleRegs.write (r : NybbleRegs) (a : Word) (v : Byte) : Nat → List NybbleReg → NybbleRegs
  | _, [] => r
  | j, m :: ms =>
    let r1 := if a = m.lowAddr then r.writeLow j v else if a = m.highAddr then r.writeHigh j v else r
    NybbleRegs.write r1 a v (j + 1) ms

/-! ### Writes -/

/-- `CHR_WRITABLE` (spec/50_cartridge.md R389). -/
def Cartridge.chrWritable (cfg : Config) (c : Cartridge) : Bool :=
  match cfg.chrWritable with
  | .whenSynthesized => c.chrIsRam
  | .always => true
  | .never => false

/-- The board's own effect of a register write (R453, R461, R462, R481 to R488). -/
def Cartridge.boardWrite (c : Cartridge) (a : Word) (v : Byte) : Cartridge × List BusEvent :=
  match c.board with
  | .nrom => (c, [])
  | .mmc1 m =>
    let m1 := m.write a v
    ({ c with board := .mmc1 m1, mirroring := if m.loadsControl a v then m1.mirroring else c.mirroring }, [])
  | .mmc3 m =>
    let w := m.write a v
    ({ c with board := .mmc3 w.1, mirroring := Mmc3.mirroringWrite c.initialMirroring c.mirroring a v }, w.2)

/-- DESIGN CHOICE (notes 3). A register write as the embedded components see it, after the board's own effect: the
addresses are those of the two OPEN register maps (R427, R428). -/
def Cartridge.componentWrite (cfg : Config) (c : Cartridge) (a : Word) (v : Byte) : Cartridge × List BusEvent :=
  let g : Option CycleIrq × List BusEvent :=
    match c.cycleIrq, cycleIrqOpAt cfg a with
    | some g, some op => (some (g.operate op v).1, (g.operate op v).2)
    | g, _ => (g, [])
  ({ c with cycleIrq := g.1, nybble := c.nybble.map fun r => r.write a v 0 cfg.nybbleRegMap }, g.2)

/-- The windows of a cartridge in increasing order of their addresses, each as its address, its length and the
offset it shows (R422): the CHR windows, then the PRG windows. -/
def Cartridge.windows (c : Cartridge) : List (Nat × Nat × Nat) :=
  let kc := c.board.chrWindow
  let kp := c.board.prgWindow
  (List.range (0x2000 / kc)).map (fun i => (i * kc, kc, c.chrOffset (i * kc))) ++
  (List.range (0x8000 / kp)).map (fun i => (0x8000 + i * kp, kp, c.prgOffset (0x8000 + i * kp)))

/-- One `bankSwitched` event for each window whose translated offset changed (R422). -/
def bankSwitches (before after : Cartridge) : List BusEvent :=
  ((before.windows.zip after.windows).filter fun w => w.1.2.2 != w.2.2.2).map
    fun w => .bankSwitched w.2.1 w.2.2.1

/-- The notifications after a register write: one `mirroringChanged` if the mode changed (R421), then the bank
switches (R422). -/
def notifications (before after : Cartridge) : List BusEvent :=
  (if after.mirroring ≠ before.mirroring then [.mirroringChanged after.mirroring] else []) ++
  bankSwitches before after

/-- `boardRegisterWrite(a, v)` with everything it emits (R413). -/
def Cartridge.registerWrite (cfg : Config) (c : Cartridge) (a : Word) (v : Byte) : Cartridge × List BusEvent :=
  let b := c.boardWrite a v
  let d := b.1.componentWrite cfg a v
  (d.1, b.2 ++ d.2 ++ notifications c d.1)

/-- The mapper's indexed byte write (R411 to R415). No write reaches `prg` (R414). -/
def Cartridge.write (cfg : Config) (c : Cartridge) (a : Word) (v : Byte) : Cartridge × List BusEvent :=
  if a.toNat < 0x2000 then
    (if c.chrWritable cfg then { c with chr := c.chr.write (c.chrOffset a.toNat) v } else c, [])
  else if a.toNat < 0x6000 then (c, [])
  else if a.toNat < 0x8000 then
    ({ c with saveRam := c.saveRam.write (a.toNat - 0x6000) v, dirty := true }, [])
  else c.registerWrite cfg a v

/-- The per-video-step hook: only the MMC3-class board has a scanline counter (R423, R489, R490). -/
def Cartridge.stepVideo (cfg : Config) (c : Cartridge) (scanline cycle : Int)
    (showBackground showSprites : Bool) : Cartridge × List BusEvent :=
  match c.board with
  | .mmc3 m =>
    if videoQualifies cfg.mmc3IrqCycle scanline cycle showBackground showSprites then
      ({ c with board := .mmc3 (m.clock cfg.mmc3IrqMode).1 }, (m.clock cfg.mmc3IrqMode).2)
    else (c, [])
  | .nrom => (c, [])
  | .mmc1 _ => (c, [])

/-- The CPU-cycle clock: only an embedded cycle-based IRQ generator uses it (R426). -/
def Cartridge.tickCpu (cfg : Config) (c : Cartridge) (n : Nat) : Cartridge × List BusEvent :=
  match c.cycleIrq with
  | some g =>
    ({ c with cycleIrq := some (g.ticks cfg.cycleIrqDivide n).1 }, (g.ticks cfg.cycleIrqDivide n).2)
  | none => (c, [])

end Sys2Proof.Machine
end

