-- ==== Sys2Proof/Machine/Ops.lean ====
section
/-! DEFINITION. The named operations over registers, bus, stack and interrupts: one home for every state change an
instruction or a host call makes. Taking an exception is one operation (`enterException`), used by NMI, IRQ and BRK; the
return from one stands beside it. -/

namespace Sys2Proof.Machine

/-! ### Registers -/

def State.setA (s : State) (v : Byte) : State := { s with a := v }
def State.setX (s : State) (v : Byte) : State := { s with x := v }
def State.setY (s : State) (v : Byte) : State := { s with y := v }
def State.setSp (s : State) (v : Byte) : State := { s with sp := v }
def State.setPc (s : State) (v : Word) : State := { s with pc := v }
def State.setP (s : State) (v : Byte) : State := { s with p := v }
def State.setStall (s : State) (n : Nat) : State := { s with stall := n }
def State.setPending (s : State) (k : Pending) : State := { s with pending := k }
def State.setHalted (s : State) (b : Bool) : State := { s with halted := b }
def State.setRam (s : State) (m : Memory) : State := { s with ram := m }
def State.setCart (s : State) (c : Option Cartridge) : State := { s with cart := c }
def State.setReplies (s : State) (rs : List Reply) : State := { s with replies := rs }
def State.setReturned (s : State) (n : BitVec 64) : State := { s with returned := n }
def State.setEvents (s : State) (es : List BusEvent) : State := { s with events := es }

/-- `cycles <- cycles + n`, modulo 2^64 (spec/40_step_and_addressing.md R157). -/
def State.charge (s : State) (n : Nat) : State := { s with cycles := s.cycles + BitVec.ofNat 64 n }

/-- Appends what a transaction shows outside. -/
def State.note (s : State) (es : List BusEvent) : State := { s with events := s.events ++ es }

/-- A flag of P by name (spec/10_state.md R36). -/
def State.flag (s : State) (f : Flag) : Bool := getFlag s.p f

/-- Writes one flag of P. -/
def State.setFlag (s : State) (f : Flag) (v : Bool) : State := s.setP (putFlag s.p f v)

/-- `setNZ(v)` (spec/41_alu.md R171). -/
def State.setNZ (s : State) (v : Byte) : State := s.setP (putNZ s.p v)

/-! ### Interrupt requests and stall (spec/60_exceptions.md R521, R522, R524, spec/10_state.md R55) -/

/-- The pending request after `signal IRQ`: with `IRQ_MASK_POINT = request` it is discarded while I = 1; it never replaces an NMI
(R521). -/
def requestIrq (point : IrqMaskPoint) (masked : Bool) (k : Pending) : Pending :=
  match point with
  | .request => if masked = false ∧ k ≠ .nmi then .irq else k
  | .delivery => if k ≠ .nmi then .irq else k

/-- The pending request after `cancel IRQ`: it never cancels an NMI (R524). -/
def acknowledgeIrq (k : Pending) : Pending := if k = .irq then .none else k

/-- `signal IRQ` (R521). -/
def State.signalIrq (s : State) : State := s.setPending (requestIrq s.cfg.irqMaskPoint (s.flag .i) s.pending)

/-- `signal NMI` (R522). -/
def State.signalNmi (s : State) : State := s.setPending .nmi

/-- `cancel IRQ` (R524). -/
def State.cancelIrq (s : State) : State := s.setPending (acknowledgeIrq s.pending)

/-- `addStall(n)` (spec/10_state.md R55). -/
def State.addStall (s : State) (n : Nat) : State := s.setStall (s.stall + n)

/-- The pending request after one event of the mapper (spec/51_mapper_common.md R424). -/
def pendingAfterEvent (point : IrqMaskPoint) (masked : Bool) (k : Pending) (e : BusEvent) : Pending :=
  match e with
  | .irq => requestIrq point masked k
  | .irqAck => acknowledgeIrq k
  | .read _ _ | .write _ _ | .mirroringChanged _ | .bankSwitched _ _ => k

/-- The pending request after the events of one mapper operation: each counts at once, in order (spec/51_mapper_common.md R424,
R425). -/
def State.eventsPending (s : State) (es : List BusEvent) : Pending :=
  es.foldl (pendingAfterEvent s.cfg.irqMaskPoint (s.flag .i)) s.pending

/-- The processor's reaction to the events of one mapper operation. -/
def State.receiveAll (s : State) (es : List BusEvent) : State :=
  { s with events := s.events ++ es, pending := s.eventsPending es }

/-! ### The devices behind the bus (spec/60_exceptions.md R538) -/

/-- The pending request after one call of a device (R521, R522, R524). -/
def pendingAfterCall (point : IrqMaskPoint) (masked : Bool) (k : Pending) (call : DeviceCall) : Pending :=
  match call with
  | .signalNmi => .nmi
  | .signalIrq => requestIrq point masked k
  | .cancelIrq => acknowledgeIrq k
  | .addStall _ => k

/-- The stall counter after one call of a device (spec/10_state.md R55). -/
def stallAfterCall (stall : Nat) (call : DeviceCall) : Nat :=
  match call with
  | .addStall n => stall + n
  | .signalNmi | .signalIrq | .cancelIrq => stall

/-- The calls that the devices make during the next access. Where no reply is left, none does (notes 1). -/
def State.nextCalls (s : State) : List DeviceCall :=
  match s.replies with
  | [] => []
  | r :: _ => r.calls

/-- The byte that the next access reads if it is a read in a device window. Where no reply is left no device claims the access,
and the read answers the open-bus byte (spec/20_memory.md R79; DESIGN CHOICE, notes 1). -/
def State.nextDeviceByte (s : State) (a : Word) : Byte :=
  match s.replies with
  | [] => hi a
  | r :: _ => r.value

/-- The pending request after the calls that the devices make during the next access. -/
def State.reactPending (s : State) (k : Pending) : Pending :=
  s.nextCalls.foldl (pendingAfterCall s.cfg.irqMaskPoint (s.flag .i)) k

/-- The stall counter after the calls that the devices make during the next access. -/
def State.reactStall (s : State) : Nat := s.nextCalls.foldl stallAfterCall s.stall

/-- One transaction that stores nothing: it is shown, and the devices react: the next reply is used up and its calls take effect
in order. -/
def State.access (s : State) (e : BusEvent) : State :=
  { s with
    events  := s.events ++ [e]
    pending := s.reactPending s.pending
    stall   := s.reactStall
    replies := s.replies.tail }

/-! ### The bus (spec/20_memory.md) -/

/-- What answers an address. -/
inductive Route where
  /-- A RAM cell. -/
  | ram (cell : Nat)
  /-- The mapper of the loaded cartridge. -/
  | mapper (c : Cartridge)
  /-- Another device. -/
  | device
  /-- No device claims the address. -/
  | unclaimed
  deriving DecidableEq, Repr

/-- The first window of the bus that contains an address and whose target is present. -/
def routeIn (bus : List BusWindow) (cart : Option Cartridge) (a : Word) : Route :=
  match bus with
  | [] => .unclaimed
  | w :: ws =>
    if w.first ≤ a ∧ a ≤ w.last then
      match w.target, cart with
      | .ram mask, _ => .ram (a &&& mask).toNat
      | .mapper, some c => .mapper c
      | .mapper, none => routeIn ws cart a
      | .device, _ => .device
    else routeIn ws cart a

/-- The routing of the SystemBus (spec/20_memory.md R83; the parameter `BUS`, D25). -/
def State.route (s : State) (a : Word) : Route := routeIn s.cfg.bus s.cart a

/-- The byte that `MemRead(a, 1)` returns if it is the next access. An address that no device claims returns the open-bus
byte, "the high byte of the address itself" (R79). -/
def State.peek (s : State) (a : Word) : Byte :=
  match s.route a with
  | .ram k => s.ram.read k
  | .mapper c => c.read a
  | .device => s.nextDeviceByte a
  | .unclaimed => hi a

/-- The state after `MemRead(a, 1)`, whose result is `s.peek a` (spec/00_scope.md R12). The read may have side effects in a
device (R75), which are the reaction; RAM and mapper do not change (spec/51_mapper_common.md R429). -/
def State.busRead (s : State) (a : Word) : State := s.access (.read a (s.peek a))

/-- The state after reads of several addresses, in order. -/
def State.busReads (s : State) (as : List Word) : State := as.foldl State.busRead s

/-- RAM after a write to an address. -/
def State.ramAfter (s : State) (a : Word) (v : Byte) : Memory :=
  match s.route a with
  | .ram k => s.ram.write k v
  | .mapper _ | .device | .unclaimed => s.ram

/-- The cartridge after a write to an address. -/
def State.cartAfter (s : State) (a : Word) (v : Byte) : Option Cartridge :=
  match s.route a with
  | .mapper c => some (c.write s.cfg a v).1
  | .ram _ | .device | .unclaimed => s.cart

/-- What the mapper shows of its reaction to a write to an address. -/
def State.mapperEvents (s : State) (a : Word) (v : Byte) : List BusEvent :=
  match s.route a with
  | .mapper c => (c.write s.cfg a v).2
  | .ram _ | .device | .unclaimed => []

/-- The state after `MemWrite(a, 1, v)` (spec/00_scope.md R12): RAM or the mapper takes the byte, the mapper's events reach the
processor at once (spec/51_mapper_common.md R425), then the devices react (DESIGN CHOICE, notes 9: in that order). A write that
no device claims is "a silent no-op" (R79). -/
def State.busWrite (s : State) (a : Word) (v : Byte) : State :=
  { s with
    ram     := s.ramAfter a v
    cart    := s.cartAfter a v
    events  := s.events ++ .write a v :: s.mapperEvents a v
    pending := s.reactPending (s.eventsPending (s.mapperEvents a v))
    stall   := s.reactStall
    replies := s.replies.tail }

/-- `Read16(a)`: the low byte at `a`, the high byte at `a + 1` modulo 65536 (spec/00_scope.md R12). -/
def State.read16 (s : State) (a : Word) : Word := w16 ((s.busRead a).peek (a + 1)) (s.peek a)

/-- The address after `a` within its 256-byte page: only the low byte is incremented (spec/00_scope.md R12). -/
def nextInPage (a : Word) : Word := w16 (hi a) (lo a + 1)

/-- `Read16Wrap(a)` (spec/00_scope.md R12). -/
def State.read16Wrap (s : State) (a : Word) : Word := w16 ((s.busRead a).peek (nextInPage a)) (s.peek a)

/-! ### The stack (spec/00_scope.md R13, spec/20_memory.md R80) -/

/-- The address of the stack slot that an S designates: the stack never leaves page `$01`. -/
def stackAddr (sp : Byte) : Word := w16 0x01 sp

/-- `push(v)`: the byte is written, then S decrements. -/
def State.push (s : State) (v : Byte) : State :=
  (s.busWrite (stackAddr s.sp) v).setSp (s.sp - 1)

/-- `push16(w)`: the high byte first. -/
def State.push16 (s : State) (w : Word) : State := (s.push (hi w)).push (lo w)

/-- The byte that `pop()` returns. -/
def State.popped (s : State) : Byte := s.peek (stackAddr (s.sp + 1))

/-- The state after `pop()`: S increments, then the byte is read. -/
def State.pop (s : State) : State := (s.setSp (s.sp + 1)).busRead (stackAddr (s.sp + 1))

/-- The word that `pop16()` returns: the low byte is popped first. -/
def State.popped16 (s : State) : Word := w16 s.pop.popped s.popped

/-- The state after `pop16()`. -/
def State.pop16 (s : State) : State := s.pop.pop

/-! ### Taking an exception and returning from one -/

/-- TAKING AN EXCEPTION (spec/60_exceptions.md R525, spec/44_control_flow.md R283): the return address and a copy of the
flags are pushed, I is set, and PC is loaded from a vector. -/
def State.enterException (s : State) (returnTo : Word) (flags : Byte) (vector : Word) : State :=
  let s1 := ((s.push16 returnTo).push flags).setFlag .i true
  (s1.busReads [vector, vector + 1]).setPc (s1.read16 vector)

/-- The vector of a pending request (R525, R527). -/
def interruptVector (cfg : Config) (k : Pending) : Word :=
  match k with
  | .nmi => cfg.vecNmi
  | .irq => cfg.vecIrq
  | .none => cfg.vecIrq

/-- `enterInterrupt(k)` (R525, R526): the exception is entered with the interrupt's copy of the flags, 7 cycles are
charged and the request is consumed. `pending <- None` is the last line of R525, so a request made during the entry's own
accesses is consumed too (notes 9). -/
def State.enterInterrupt (s : State) (k : Pending) : State :=
  ((s.enterException s.pc (pushedByInterrupt s.cfg.intPushB s.p) (interruptVector s.cfg k)).charge 7).setPending .none

/-- Whether step 2 enters the pending request (R528). -/
def State.entersInterrupt (s : State) : Bool :=
  match s.pending, s.cfg.irqMaskPoint with
  | .none, _ => false
  | .nmi, _ => true
  | .irq, .request => true
  | .irq, .delivery => !s.flag .i

/-- Step 2 of the step algorithm (spec/40_step_and_addressing.md R134). -/
def State.takePending (s : State) : State :=
  if s.entersInterrupt then s.enterInterrupt s.pending else s

/-- RETURNING FROM AN EXCEPTION (spec/44_control_flow.md R284, spec/60_exceptions.md R533): the flags are pulled, then PC,
with no adjustment. -/
def State.returnFromException (s : State) : State :=
  let s1 := s.pop.setP (pulledFlags s.popped)
  s1.pop16.setPc s1.popped16

/-! ### Reset (spec/70_reset_and_hazards.md) -/

/-- `reset()` (R560): two reads and no write (R567); A, X, Y and `cycles` stay (R564, R565), and so do RAM, cartridge and
mapper (spec/51_mapper_common.md R429). -/
def State.resetCpu (s : State) : State :=
  let s1 := (s.busReads [s.cfg.vecReset, s.cfg.vecReset + 1]).setPc (s.read16 s.cfg.vecReset)
  { s1 with sp := s.cfg.resetSp, p := s.cfg.resetP, stall := 0, pending := .none, halted := false }

/-! ### The parts of a step that run no instruction (spec/40_step_and_addressing.md R131 to R133, R139) -/

/-- A step or a host call starts with nothing shown outside yet (notes 4). -/
def State.begin (s : State) : State := s.setEvents []

/-- Step 0: a halted step makes no access, changes no state and returns 0 (R132). -/
def State.haltedStep (s : State) : State := s.begin.setReturned 0

/-- Step 1: a stall step decrements the stall counter and returns 1 (R133). -/
def State.stallStep (s : State) : State := (s.begin.setStall (s.stall - 1)).setReturned 1

/-- Step 7: the return value is the difference of the cycle counter (R139, R157). -/
def State.finish (s : State) (c0 : BitVec 64) : State := s.setReturned (s.cycles - c0)

/-! ### Placing a program from outside -/

/-- Puts a byte where a fetch at an address finds it: into the RAM cell that answers there, or, where no RAM answers, into
RAM put there by a window of its own (notes 5). -/
def State.place (s : State) (a : Word) (v : Byte) : State :=
  match s.route a with
  | .ram k => s.setRam (s.ram.write k v)
  | .mapper _ | .device | .unclaimed =>
    { s with
      cfg := { s.cfg with bus := { first := a, last := a, target := .ram 0xFFFF } :: s.cfg.bus }
      ram := s.ram.write a.toNat v }

end Sys2Proof.Machine
end

