-- ==== Sys2Proof/Machine/Operands.lean ====
section
/-! DEFINITION. The addressing-mode resolver (spec/40_step_and_addressing.md R136, R141 to R154), operand reads and
writes, the fetch, and the common frame of every instruction: resolve, advance PC, charge cycles, then the instruction's own
effect (R131). -/

namespace Sys2Proof.Machine

/-- What the resolver returns (R136). -/
structure Resolved where
  ea      : Word
  base    : Word
  crossed : Bool
  deriving DecidableEq, Repr

/-- `sext_16(v)` (spec/00_scope.md R10). -/
def sext16 (v : Byte) : Word := v.signExtend 16

/-- `zext_16(v)` (spec/00_scope.md R10). -/
def zext16 (v : Byte) : Word := v.zeroExtend 16

/-- The zero-page address of a byte, `w16(0x00, b)`. -/
def zeroPage (b : Byte) : Word := w16 0x00 b

/-- A mode with no index: `base` equals `ea` and no page is crossed (R136, R154). -/
def direct (ea : Word) : Resolved := { ea := ea, base := ea, crossed := false }

/-- An indexed 16-bit base: the sum wraps modulo 65536, and a different high byte is a page crossing (R148, R154). -/
def indexed (base : Word) (index : Byte) : Resolved :=
  let ea := base + zext16 index
  { ea := ea, base := base, crossed := decide (hi ea ≠ hi base) }

/-- The effective address of an operand, from the state before PC advances: PC is the address of the opcode (R141 to
R153). -/
def resolve (o : Operand) (s : State) : Resolved :=
  match o with
  | .imp   => direct 0
  | .acc   => direct 0
  | .imm _ => direct (s.pc + 1)
  | .zp b  => direct (zeroPage b)
  | .zpx b => direct (zeroPage (b + s.x))
  | .zpy b => direct (zeroPage (b + s.y))
  | .abs w => direct w
  | .abx w => indexed w s.x
  | .aby w => indexed w s.y
  | .ind w => direct (s.read16Wrap w)
  | .izx b => direct (s.read16Wrap (zeroPage (b + s.x)))
  | .izy b => indexed (s.read16Wrap (zeroPage b)) s.y
  | .rel b => direct (s.pc + 2 + sext16 b)

/-- The two addresses that `Read16Wrap(a)` reads, low byte first (spec/00_scope.md R12). -/
def pairInPage (a : Word) : List Word := [a, nextInPage a]

/-- The addresses of the resolver's pointer reads, after the operand bytes (R150 to R152). -/
def pointerReads (o : Operand) (s : State) : List Word :=
  match o with
  | .ind w => pairInPage w
  | .izx b => pairInPage (zeroPage (b + s.x))
  | .izy b => pairInPage (zeroPage b)
  | .imp | .acc | .imm _ | .zp _ | .zpx _ | .zpy _ | .abs _ | .abx _ | .aby _ | .rel _ => []

/-- The state after the resolver's pointer reads. -/
def State.afterPointer (s : State) (o : Operand) : State := s.busReads (pointerReads o s)

/-! ### The operand as the execution function sees it (spec/00_scope.md R15) -/

/-- The operand `M`: the byte at `ea`; for immediate mode the operand byte itself; for accumulator mode A. -/
def operandValue (o : Operand) (r : Resolved) (s : State) : Byte :=
  match o with
  | .imm b => b
  | .acc => s.a
  | .imp | .zp _ | .zpx _ | .zpy _ | .abs _ | .abx _ | .aby _ | .ind _ | .izx _ | .izy _ | .rel _ => s.peek r.ea

/-- The state after the operand read; accumulator mode makes none (spec/40_step_and_addressing.md R142, R143). -/
def afterOperand (o : Operand) (r : Resolved) (s : State) : State :=
  match o with
  | .acc => s
  | .imp | .imm _ | .zp _ | .zpx _ | .zpy _ | .abs _ | .abx _ | .aby _ | .ind _ | .izx _ | .izy _ | .rel _ =>
    s.access (.read r.ea (operandValue o r s))

/-- Reads the operand and goes on with its value. -/
def withOperand (o : Operand) (r : Resolved) (k : Byte → State → State) (s : State) : State :=
  k (operandValue o r s) (afterOperand o r s)

/-- Writes the result of a read-modify-write back: to A in accumulator mode, else to `ea`
(spec/43_arith_logic_shift.md section 5). -/
def writeBack (o : Operand) (r : Resolved) (v : Byte) (s : State) : State :=
  match o with
  | .acc => s.setA v
  | .imp | .imm _ | .zp _ | .zpx _ | .zpy _ | .abs _ | .abx _ | .aby _ | .ind _ | .izx _ | .izy _ | .rel _ =>
    s.busWrite r.ea v

/-! ### The frame of an instruction (spec/40_step_and_addressing.md R131) -/

/-- The cycles of step 5: the base cost, and one more when a page was crossed and the opcode pays for it (R137, R155). -/
def stepCycles (i : Instr) (mode : PagePenaltyMode) (crossed : Bool) : Nat :=
  let pays : Bool :=
    match mode with
    | .perOpcode => i.pagePenalty
    | .uniform => i.operand.mode.mayCross
  i.baseCycles + (if crossed && pays then 1 else 0)

/-- Steps 4 and 5: the resolver's pointer reads, then PC and the cycle counter advance (R136, R137). -/
def State.advance (s : State) (i : Instr) : State :=
  ((s.afterPointer i.operand).setPc (s.pc + BitVec.ofNat 16 i.size)).charge
    (stepCycles i s.cfg.pagePenaltyMode (resolve i.operand s).crossed)

/-- Steps 4 to 6: the execution function runs on the advanced state, with the address resolved before (R138). -/
def perform (i : Instr) (effect : Resolved → State → State) (s : State) : Host.Outcome State Fault Refusal :=
  .next (effect (resolve i.operand s) (s.advance i))

/-! ### Fetch (spec/40_step_and_addressing.md R135, R140) -/

/-- The instruction at PC: its bytes are read through the bus like any data, one after another (spec/20_memory.md R71). -/
def State.fetchInstr (s : State) : Instr :=
  let s1 := s.busRead s.pc
  let s2 := s1.busRead (s.pc + 1)
  decodeBytes (s.peek s.pc) (s1.peek (s.pc + 1)) (s2.peek (s.pc + 2))

/-- The operand bytes that the resolver reads after the opcode: none in immediate mode, whose byte the execution function
reads as its operand (R143). -/
def operandByteReads (o : Operand) : Nat :=
  match o.mode with
  | .imm => 0
  | .imp | .acc | .zp | .zpx | .zpy | .abs | .abx | .aby | .ind | .izx | .izy | .rel => o.length

/-- The addresses that the fetch reads: the opcode, then the resolver's operand bytes (R135, R140). -/
def State.fetchReads (s : State) : List Word :=
  s.pc :: (List.range (operandByteReads s.fetchInstr.operand)).map fun k => s.pc + BitVec.ofNat 16 (k + 1)

/-- The state after the fetch. -/
def State.fetched (s : State) : State := s.busReads s.fetchReads

end Sys2Proof.Machine
end

