-- ==== Sys2Proof/Machine/Arith.lean ====
section
/-! DEFINITION. Arithmetic, logical, compare, increment and shift instructions (spec/43_arith_logic_shift.md). The execution
functions are named, because the compositions of spec/46_undocumented.md run them again. -/

namespace Sys2Proof.Machine

/-! ### Execution functions -/

/-- `(r, c, v) <- add(A, M, P.C); A <- r; P.C <- c; P.V <- v; setNZ(A)` (R230). -/
def addA (o : Operand) (r : Resolved) : State → State :=
  withOperand o r fun m s =>
    let out := aluAdd s.a m (s.flag .c)
    (s.setA out.r).setP (putArith s.p out)

/-- `(r, c, v) <- sub(A, M, P.C); A <- r; P.C <- c; P.V <- v; setNZ(A)` (R231). -/
def subA (o : Operand) (r : Resolved) : State → State :=
  withOperand o r fun m s =>
    let out := aluSub s.a m (s.flag .c)
    (s.setA out.r).setP (putArith s.p out)

/-- `A <- and(A, M); setNZ(A)` (R232). -/
def andA (o : Operand) (r : Resolved) : State → State :=
  withOperand o r fun m s => (s.setA (aluAnd s.a m)).setNZ (aluAnd s.a m)

/-- `A <- or(A, M); setNZ(A)` (R233). -/
def orA (o : Operand) (r : Resolved) : State → State :=
  withOperand o r fun m s => (s.setA (aluOr s.a m)).setNZ (aluOr s.a m)

/-- `A <- xor(A, M); setNZ(A)` (R234). -/
def xorA (o : Operand) (r : Resolved) : State → State :=
  withOperand o r fun m s => (s.setA (aluXor s.a m)).setNZ (aluXor s.a m)

/-- `(c, z, n) <- cmp(reg, M)` and the three flags written, for A, X or Y (R235 to R237). -/
def compareWith (reg : State → Byte) (o : Operand) (r : Resolved) : State → State :=
  withOperand o r fun m s => s.setP (putCmp s.p (aluCmp (reg s) m))

/-- `(z, v, n) <- bit(A, M)` and the three flags written (R238). -/
def bitTest (o : Operand) (r : Resolved) : State → State :=
  withOperand o r fun m s => s.setP (putBit s.p (aluBit s.a m))

/-- `r <- inc(M); MemWrite(ea, 1, r); setNZ(r)` (R239). -/
def incM (o : Operand) (r : Resolved) : State → State :=
  withOperand o r fun m s => (s.busWrite r.ea (aluInc m)).setNZ (aluInc m)

/-- `r <- dec(M); MemWrite(ea, 1, r); setNZ(r)` (R240). -/
def decM (o : Operand) (r : Resolved) : State → State :=
  withOperand o r fun m s => (s.busWrite r.ea (aluDec m)).setNZ (aluDec m)

/-- A shift or rotate `(r, c)` of the operand: `P.C <- c`, the result written back, `setNZ(r)` (R245 to R248). -/
def shiftM (f : Byte → Bool → ShiftOut) (o : Operand) (r : Resolved) : State → State :=
  withOperand o r fun m s =>
    let out := f m (s.flag .c)
    (writeBack o r out.r (s.setFlag .c out.c)).setNZ out.r

/-- ASL (R245). -/
def aslM (o : Operand) (r : Resolved) : State → State := shiftM (fun v _ => aluAsl v) o r

/-- LSR (R246). -/
def lsrM (o : Operand) (r : Resolved) : State → State := shiftM (fun v _ => aluLsr v) o r

/-- ROL (R247). -/
def rolM (o : Operand) (r : Resolved) : State → State := shiftM aluRol o r

/-- ROR (R248). -/
def rorM (o : Operand) (r : Resolved) : State → State := shiftM aluRor o r

/-! ### Meanings -/

/-- ADC (R230). -/
def execAdc (o : Operand) (s : State) : Host.Outcome State Fault Refusal := perform (.adc o) (addA o) s

/-- SBC (R231). -/
def execSbc (o : Operand) (s : State) : Host.Outcome State Fault Refusal := perform (.sbc o) (subA o) s

/-- AND (R232). -/
def execAnd (o : Operand) (s : State) : Host.Outcome State Fault Refusal := perform (.and o) (andA o) s

/-- ORA (R233). -/
def execOra (o : Operand) (s : State) : Host.Outcome State Fault Refusal := perform (.ora o) (orA o) s

/-- EOR (R234). -/
def execEor (o : Operand) (s : State) : Host.Outcome State Fault Refusal := perform (.eor o) (xorA o) s

/-- CMP (R235). -/
def execCmp (o : Operand) (s : State) : Host.Outcome State Fault Refusal :=
  perform (.cmp o) (compareWith State.a o) s

/-- CPX (R236). -/
def execCpx (o : Operand) (s : State) : Host.Outcome State Fault Refusal :=
  perform (.cpx o) (compareWith State.x o) s

/-- CPY (R237). -/
def execCpy (o : Operand) (s : State) : Host.Outcome State Fault Refusal :=
  perform (.cpy o) (compareWith State.y o) s

/-- BIT (R238). -/
def execBit (o : Operand) (s : State) : Host.Outcome State Fault Refusal := perform (.bit o) (bitTest o) s

/-- INC (R239). -/
def execInc (o : Operand) (s : State) : Host.Outcome State Fault Refusal := perform (.inc o) (incM o) s

/-- DEC (R240). -/
def execDec (o : Operand) (s : State) : Host.Outcome State Fault Refusal := perform (.dec o) (decM o) s

/-- INX (R241). -/
def execInx (s : State) : Host.Outcome State Fault Refusal :=
  perform .inx (fun _ s => (s.setX (aluInc s.x)).setNZ (aluInc s.x)) s

/-- INY (R242). -/
def execIny (s : State) : Host.Outcome State Fault Refusal :=
  perform .iny (fun _ s => (s.setY (aluInc s.y)).setNZ (aluInc s.y)) s

/-- DEX (R243). -/
def execDex (s : State) : Host.Outcome State Fault Refusal :=
  perform .dex (fun _ s => (s.setX (aluDec s.x)).setNZ (aluDec s.x)) s

/-- DEY (R244). -/
def execDey (s : State) : Host.Outcome State Fault Refusal :=
  perform .dey (fun _ s => (s.setY (aluDec s.y)).setNZ (aluDec s.y)) s

/-- ASL (R245). -/
def execAsl (o : Operand) (s : State) : Host.Outcome State Fault Refusal := perform (.asl o) (aslM o) s

/-- LSR (R246). -/
def execLsr (o : Operand) (s : State) : Host.Outcome State Fault Refusal := perform (.lsr o) (lsrM o) s

/-- ROL (R247). -/
def execRol (o : Operand) (s : State) : Host.Outcome State Fault Refusal := perform (.rol o) (rolM o) s

/-- ROR (R248). -/
def execRor (o : Operand) (s : State) : Host.Outcome State Fault Refusal := perform (.ror o) (rorM o) s

end Sys2Proof.Machine
end

