-- ==== Sys2Proof/Machine/Control.lean ====
section
/-! DEFINITION. Control transfer (spec/44_control_flow.md). When an execution function runs, PC holds the address of the next
instruction. -/

namespace Sys2Proof.Machine

/-- The address that a taken branch's target is compared with, from PC after step 5
(spec/40_step_and_addressing.md R156). -/
def branchRef (ref : BranchPageRef) (next : Word) : Word :=
  match ref with
  | .nextPc => next
  | .opcodePc => next - 2

/-- The cycles that a taken branch adds: one, and one more when the target is on another page (R270,
spec/40_step_and_addressing.md R156). -/
def takenCycles (ref : BranchPageRef) (next target : Word) : Nat :=
  if hi target ≠ hi (branchRef ref next) then 2 else 1

/-- `branch(cond)` (R270): a branch that is not taken changes nothing after step 5. -/
def branchIf (f : Flag) (want : Bool) (r : Resolved) (s : State) : State :=
  if s.flag f = want then (s.charge (takenCycles s.cfg.branchPageRef s.pc r.ea)).setPc r.ea else s

/-- BPL: `P.N == 0` (R271). -/
def execBpl (d : Byte) (s : State) : Host.Outcome State Fault Refusal := perform (.bpl d) (branchIf .n false) s

/-- BMI: `P.N == 1` (R272). -/
def execBmi (d : Byte) (s : State) : Host.Outcome State Fault Refusal := perform (.bmi d) (branchIf .n true) s

/-- BVC: `P.V == 0` (R273). -/
def execBvc (d : Byte) (s : State) : Host.Outcome State Fault Refusal := perform (.bvc d) (branchIf .v false) s

/-- BVS: `P.V == 1` (R274). -/
def execBvs (d : Byte) (s : State) : Host.Outcome State Fault Refusal := perform (.bvs d) (branchIf .v true) s

/-- BCC: `P.C == 0` (R275). -/
def execBcc (d : Byte) (s : State) : Host.Outcome State Fault Refusal := perform (.bcc d) (branchIf .c false) s

/-- BCS: `P.C == 1` (R276). -/
def execBcs (d : Byte) (s : State) : Host.Outcome State Fault Refusal := perform (.bcs d) (branchIf .c true) s

/-- BNE: `P.Z == 0` (R277). -/
def execBne (d : Byte) (s : State) : Host.Outcome State Fault Refusal := perform (.bne d) (branchIf .z false) s

/-- BEQ: `P.Z == 1` (R278). -/
def execBeq (d : Byte) (s : State) : Host.Outcome State Fault Refusal := perform (.beq d) (branchIf .z true) s

/-- JMP: `PC <- ea`; the target is not read (R279, R280). The indirect form's pointer wraps within its page (R150). -/
def execJmp (o : Operand) (s : State) : Host.Outcome State Fault Refusal :=
  perform (.jmp o) (fun r s => s.setPc r.ea) s

/-- JSR: `push16(PCn - 1); PC <- ea` (R281). -/
def execJsr (w : Word) (s : State) : Host.Outcome State Fault Refusal :=
  perform (.jsr w) (fun r s => (s.push16 (s.pc - 1)).setPc r.ea) s

/-- RTS: `PC <- pop16() + 1` (R282). -/
def execRts (s : State) : Host.Outcome State Fault Refusal :=
  perform .rts (fun _ s => s.pop16.setPc (s.popped16 + 1)) s

/-- BRK (R283): the exception through the IRQ vector, taken whatever I and `pending` are; it returns to BRK + 2. -/
def execBrk (s : State) : Host.Outcome State Fault Refusal :=
  perform .brk (fun _ s => s.enterException (s.pc + 1) (pushedBySoftware s.p) s.cfg.vecIrq) s

/-- RTI (R284). -/
def execRti (s : State) : Host.Outcome State Fault Refusal :=
  perform .rti (fun _ s => s.returnFromException) s

end Sys2Proof.Machine
end

