-- ==== Sys2Proof/Machine/LoadStore.lean ====
section
/-! DEFINITION. Loads, stores and register transfers (spec/42_load_store_transfer.md). Each meaning is `perform` (resolve,
advance, charge) around the execution function of its rule. -/

namespace Sys2Proof.Machine

/-- `A <- M; setNZ(A)` (R200). -/
def loadA (o : Operand) (r : Resolved) : State → State := withOperand o r fun m s => (s.setA m).setNZ m

/-- `X <- M; setNZ(X)` (R201). -/
def loadX (o : Operand) (r : Resolved) : State → State := withOperand o r fun m s => (s.setX m).setNZ m

/-- `Y <- M; setNZ(Y)` (R202). -/
def loadY (o : Operand) (r : Resolved) : State → State := withOperand o r fun m s => (s.setY m).setNZ m

/-- LDA (R200). -/
def execLda (o : Operand) (s : State) : Host.Outcome State Fault Refusal := perform (.lda o) (loadA o) s

/-- LDX (R201). -/
def execLdx (o : Operand) (s : State) : Host.Outcome State Fault Refusal := perform (.ldx o) (loadX o) s

/-- LDY (R202). -/
def execLdy (o : Operand) (s : State) : Host.Outcome State Fault Refusal := perform (.ldy o) (loadY o) s

/-- STA (R203): no read of `ea` is made. -/
def execSta (o : Operand) (s : State) : Host.Outcome State Fault Refusal :=
  perform (.sta o) (fun r s => s.busWrite r.ea s.a) s

/-- STX (R204). -/
def execStx (o : Operand) (s : State) : Host.Outcome State Fault Refusal :=
  perform (.stx o) (fun r s => s.busWrite r.ea s.x) s

/-- STY (R205). -/
def execSty (o : Operand) (s : State) : Host.Outcome State Fault Refusal :=
  perform (.sty o) (fun r s => s.busWrite r.ea s.y) s

/-- TAX (R206). -/
def execTax (s : State) : Host.Outcome State Fault Refusal :=
  perform .tax (fun _ s => (s.setX s.a).setNZ s.a) s

/-- TAY (R207). -/
def execTay (s : State) : Host.Outcome State Fault Refusal :=
  perform .tay (fun _ s => (s.setY s.a).setNZ s.a) s

/-- TXA (R208). -/
def execTxa (s : State) : Host.Outcome State Fault Refusal :=
  perform .txa (fun _ s => (s.setA s.x).setNZ s.x) s

/-- TYA (R209). -/
def execTya (s : State) : Host.Outcome State Fault Refusal :=
  perform .tya (fun _ s => (s.setA s.y).setNZ s.y) s

/-- TSX (R210). -/
def execTsx (s : State) : Host.Outcome State Fault Refusal :=
  perform .tsx (fun _ s => (s.setX s.sp).setNZ s.sp) s

/-- TXS (R211): "the one transfer that does not call setNZ". -/
def execTxs (s : State) : Host.Outcome State Fault Refusal :=
  perform .txs (fun _ s => s.setSp s.x) s

end Sys2Proof.Machine
end

