-- ==== Sys2Proof/Machine/StackFlags.lean ====
section
/-! DEFINITION. Stack, flag and no-operation instructions (spec/45_stack_flags_misc.md). -/

namespace Sys2Proof.Machine

/-- PHA: `push(A)` (R300). -/
def execPha (s : State) : Host.Outcome State Fault Refusal := perform .pha (fun _ s => s.push s.a) s

/-- PLA: `A <- pop(); setNZ(A)` (R301). -/
def execPla (s : State) : Host.Outcome State Fault Refusal :=
  perform .pla (fun _ s => (s.pop.setA s.popped).setNZ s.popped) s

/-- PHP: `push(P | 0x30)` (R302). -/
def execPhp (s : State) : Host.Outcome State Fault Refusal :=
  perform .php (fun _ s => s.push (pushedBySoftware s.p)) s

/-- PLP: `P <- (pop() & 0xEF) | 0x20` (R303). -/
def execPlp (s : State) : Host.Outcome State Fault Refusal :=
  perform .plp (fun _ s => s.pop.setP (pulledFlags s.popped)) s

/-- CLC (R304). -/
def execClc (s : State) : Host.Outcome State Fault Refusal := perform .clc (fun _ s => s.setFlag .c false) s

/-- SEC (R305). -/
def execSec (s : State) : Host.Outcome State Fault Refusal := perform .sec (fun _ s => s.setFlag .c true) s

/-- CLI (R306): the new I counts for the next request at once (spec/70_reset_and_hazards.md R573). -/
def execCli (s : State) : Host.Outcome State Fault Refusal := perform .cli (fun _ s => s.setFlag .i false) s

/-- SEI (R307): a request already pending stays pending. -/
def execSei (s : State) : Host.Outcome State Fault Refusal := perform .sei (fun _ s => s.setFlag .i true) s

/-- CLV (R308). -/
def execClv (s : State) : Host.Outcome State Fault Refusal := perform .clv (fun _ s => s.setFlag .v false) s

/-- CLD (R309). -/
def execCld (s : State) : Host.Outcome State Fault Refusal := perform .cld (fun _ s => s.setFlag .d false) s

/-- SED (R310): it changes no later arithmetic (spec/41_alu.md R176). -/
def execSed (s : State) : Host.Outcome State Fault Refusal := perform .sed (fun _ s => s.setFlag .d true) s

/-- NOP, the documented form: only PC and `cycles` change (R311). -/
def execNop (s : State) : Host.Outcome State Fault Refusal := perform .nop (fun _ s => s) s

end Sys2Proof.Machine
end

