-- ==== Sys2Proof/Machine/Undocumented.lean ====
section
/-! DEFINITION. Undocumented opcodes and lock-up (spec/46_undocumented.md). A composition runs the first instruction's
execution function and then the second's against the same resolved address, so that the second reads `ea` again
(spec/40_step_and_addressing.md R159). The unstable opcodes XAA, LAX immediate, AHX, SHX, SHY and TAS have the fixed meaning
that the spec gives them (R109; notes 7). -/

namespace Sys2Proof.Machine

/-- `A then B` (spec/40_step_and_addressing.md R159, R330). -/
def andThen (f g : Operand → Resolved → State → State) (o : Operand) (r : Resolved) (s : State) : State :=
  g o r (f o r s)

/-! ### Read-modify-write compositions -/

/-- SLO: ASL then ORA (R331). -/
def execSlo (o : Operand) (s : State) : Host.Outcome State Fault Refusal := perform (.slo o) (andThen aslM orA o) s

/-- RLA: ROL then AND (R332). -/
def execRla (o : Operand) (s : State) : Host.Outcome State Fault Refusal := perform (.rla o) (andThen rolM andA o) s

/-- SRE: LSR then EOR (R333). -/
def execSre (o : Operand) (s : State) : Host.Outcome State Fault Refusal := perform (.sre o) (andThen lsrM xorA o) s

/-- RRA: ROR then ADC; the carry out of ROR is the carry into ADC (R334). -/
def execRra (o : Operand) (s : State) : Host.Outcome State Fault Refusal := perform (.rra o) (andThen rorM addA o) s

/-- DCP: DEC then CMP (R335). -/
def execDcp (o : Operand) (s : State) : Host.Outcome State Fault Refusal :=
  perform (.dcp o) (andThen decM (compareWith State.a) o) s

/-- ISC: INC then SBC (R336). -/
def execIsc (o : Operand) (s : State) : Host.Outcome State Fault Refusal := perform (.isc o) (andThen incM subA o) s

/-! ### Other combined loads and stores -/

/-- SAX: `MemWrite(ea, 1, A & X)` (R337). -/
def execSax (o : Operand) (s : State) : Host.Outcome State Fault Refusal :=
  perform (.sax o) (fun r s => s.busWrite r.ea (s.a &&& s.x)) s

/-- LAX: `v <- M; A <- v; X <- v; setNZ(v)` (R338). -/
def execLax (o : Operand) (s : State) : Host.Outcome State Fault Refusal :=
  perform (.lax o) (fun r => withOperand o r fun m s => ((s.setA m).setX m).setNZ m) s

/-! ### Immediate-operand combinations -/

/-- ANC: `A <- and(A, M); setNZ(A); P.C <- A[7]` (R339). -/
def execAnc (row : Fin 2) (b : Byte) (s : State) : Host.Outcome State Fault Refusal :=
  perform (.anc row b) (fun r => withOperand (.imm b) r fun m s =>
    let t := aluAnd s.a m
    ((s.setA t).setNZ t).setFlag .c (bit7 t)) s

/-- ALR: `t <- and(A, M); (r, c) <- lsr(t); A <- r; P.C <- c; setNZ(A)` (R340). -/
def execAlr (b : Byte) (s : State) : Host.Outcome State Fault Refusal :=
  perform (.alr b) (fun r => withOperand (.imm b) r fun m s =>
    let out := aluLsr (aluAnd s.a m)
    (s.setA out.r).setP (putCNZ s.p out)) s

/-- The result of ARR, `(t >> 1) | (P.C << 7)` (R341). -/
def arrResult (a m : Byte) (c : Bool) : Byte := (aluAnd a m >>> 1) ||| (carryByte c <<< 7)

/-- ARR: its own C, `r[6]`, and V, `r[6] ^ r[5]`, whatever `P.D` is (R341). -/
def execArr (b : Byte) (s : State) : Host.Outcome State Fault Refusal :=
  perform (.arr b) (fun r => withOperand (.imm b) r fun m s =>
    let t := arrResult s.a m (s.flag .c)
    (((s.setA t).setNZ t).setFlag .c (bit6 t)).setFlag .v (bit6 t ^^ t.getLsbD 5)) s

/-- AXS: `t <- A & X; X <- t - M` with the flags of `cmp(t, M)` (R342). -/
def execAxs (b : Byte) (s : State) : Host.Outcome State Fault Refusal :=
  perform (.axs b) (fun r => withOperand (.imm b) r fun m s =>
    let t := s.a &&& s.x
    (s.setX (t - m)).setP (putCmp s.p (aluCmp t m))) s

/-- XAA: `A <- and(X, M); setNZ(A)` (R343). -/
def execXaa (b : Byte) (s : State) : Host.Outcome State Fault Refusal :=
  perform (.xaa b) (fun r => withOperand (.imm b) r fun m s => (s.setA (aluAnd s.x m)).setNZ (aluAnd s.x m)) s

/-! ### Store-combination opcodes -/

/-- `H = hi(base) + 1` (spec/46_undocumented.md section 4). -/
def storeMask (r : Resolved) : Byte := hi r.base + 1

/-- AHX: `MemWrite(ea, 1, A & X & H)` (R344). -/
def execAhx (o : Operand) (s : State) : Host.Outcome State Fault Refusal :=
  perform (.ahx o) (fun r s => s.busWrite r.ea (s.a &&& s.x &&& storeMask r)) s

/-- SHX: `MemWrite(ea, 1, X & H)` (R345). -/
def execShx (w : Word) (s : State) : Host.Outcome State Fault Refusal :=
  perform (.shx w) (fun r s => s.busWrite r.ea (s.x &&& storeMask r)) s

/-- SHY: `MemWrite(ea, 1, Y & H)` (R346). -/
def execShy (w : Word) (s : State) : Host.Outcome State Fault Refusal :=
  perform (.shy w) (fun r s => s.busWrite r.ea (s.y &&& storeMask r)) s

/-- TAS: `S <- A & X; MemWrite(ea, 1, S & H)` (R347). -/
def execTas (w : Word) (s : State) : Host.Outcome State Fault Refusal :=
  perform (.tas w) (fun r s => (s.setSp (s.a &&& s.x)).busWrite r.ea (s.a &&& s.x &&& storeMask r)) s

/-- LAS: `v <- M & S; A <- v; X <- v; S <- v; setNZ(v)` (R348). -/
def execLas (w : Word) (s : State) : Host.Outcome State Fault Refusal :=
  perform (.las w) (fun r => withOperand (.aby w) r fun m s =>
    let v := m &&& s.sp
    (((s.setA v).setX v).setSp v).setNZ v) s

/-! ### Duplicates and NOP forms -/

/-- SBC `$EB`: "Identical in every respect to `$E9`" (R349). -/
def execSbcDup (b : Byte) (s : State) : Host.Outcome State Fault Refusal :=
  perform (.sbcDup b) (subA (.imm b)) s

/-- NOP, implied forms (R350). -/
def execNopImp (row : Fin 6) (s : State) : Host.Outcome State Fault Refusal := perform (.nopImp row) (fun _ s => s) s

/-- NOP, immediate forms: the operand byte is skipped and not read (R351). -/
def execNopImm (row : Fin 5) (b : Byte) (s : State) : Host.Outcome State Fault Refusal :=
  perform (.nopImm row b) (fun _ s => s) s

/-- NOP, zero-page forms: the effective address is not read (R352). -/
def execNopZp (row : Fin 3) (b : Byte) (s : State) : Host.Outcome State Fault Refusal :=
  perform (.nopZp row b) (fun _ s => s) s

/-- NOP, zero-page,X forms (R352). -/
def execNopZpx (row : Fin 6) (b : Byte) (s : State) : Host.Outcome State Fault Refusal :=
  perform (.nopZpx row b) (fun _ s => s) s

/-- NOP, absolute form (R352). -/
def execNopAbs (w : Word) (s : State) : Host.Outcome State Fault Refusal := perform (.nopAbs w) (fun _ s => s) s

/-- NOP, absolute,X forms: they pay the page-crossing cycle (R352). -/
def execNopAbx (row : Fin 6) (w : Word) (s : State) : Host.Outcome State Fault Refusal :=
  perform (.nopAbx row w) (fun _ s => s) s

/-! ### Lock-up -/

/-- KIL: `raise Lockup` (R353, spec/60_exceptions.md R530): PC has advanced and the base cost is charged. -/
def execKil (row : Fin 12) (s : State) : Host.Outcome State Fault Refusal :=
  perform (.kil row) (fun _ s => s.setHalted true) s

end Sys2Proof.Machine
end

