-- ==== Sys2Proof/Machine/Step.lean ====
section
/-! DEFINITION. One step of the machine (spec/40_step_and_addressing.md R131), from the parts of Machine/Ops.lean and
Machine/Operands.lean, and the placing of an instruction where the next step fetches. -/

namespace Sys2Proof.Machine

/-- `step()` (R131): line 0 lock-up, line 1 stall, line 2 interrupt entry, line 3 fetch and decode, lines 4 to 6 in `exec`,
line 7 the return value, which the field `returned` holds. -/
def step (s : State) : Host.Outcome State Fault Refusal :=
  if s.halted then .next s.haltedStep
  else if s.stall ≠ 0 then .next s.stallStep
  else
    let s1 := s.begin.takePending
    match exec s1.fetchInstr s1.fetched with
    | .next t => .next (t.finish s.cycles)
    | .fault r => .fault r
    | .refused r => .refused r

/-- The state with an instruction of three bytes (the longest) stored at PC, and nothing left that would keep the very next step
from fetching it: not halted, no stall, no pending request (notes 5). -/
def State.withFetchWord (s : State) (nbits w : Nat) : State :=
  let s1 := ((s.place s.pc (tableWordByte nbits w 0)).place (s.pc + 1) (tableWordByte nbits w 1)).place (s.pc + 2)
    (tableWordByte nbits w 2)
  ((s1.setHalted false).setStall 0).setPending .none

end Sys2Proof.Machine
end

