-- ==== Sys2Proof/Machine/Loader.lean ====
section
/-! DEFINITION. The ROM image loader (spec/50_cartridge.md): header, body, checksum, mapper-id correction and dispatch. It
builds a whole cartridge with its mapper in power-on state, or answers an error and builds nothing (R397). -/

namespace Sys2Proof.Machine

/-- Why a load fails (R382, R384, R396). -/
inductive LoadError where
  /-- `FormatError` -/
  | format
  /-- `TruncatedError` -/
  | truncated
  /-- `UnsupportedMapperError` -/
  | unsupportedMapper
  deriving DecidableEq, Repr

/-- The fields of the 16-byte header (R381). -/
structure Header where
  prgCount   : Nat
  chrCount   : Nat
  mirrorBit  : Bool
  battery    : Bool
  trainer    : Bool
  fourScreen : Bool
  mapperLo   : BitVec 4
  mapperHi   : BitVec 4
  deriving DecidableEq, Repr

/-- The signature, "NES" and `$1A` (R381). -/
def headerSignature : List Byte := [0x4E, 0x45, 0x53, 0x1A]

/-- The header of an image, if it has one (R381, R382). Byte 7 bits 3:0 and bytes 8 to 15 are ignored. -/
def parseHeader (image : List Byte) : Option Header :=
  if 16 ≤ image.length ∧ image.take 4 = headerSignature then
    let f6 := image.getD 6 0
    let f7 := image.getD 7 0
    some
      { prgCount   := (image.getD 4 0).toNat
        chrCount   := (image.getD 5 0).toNat
        mirrorBit  := f6.getLsbD 0
        battery    := f6.getLsbD 1
        trainer    := f6.getLsbD 2
        fourScreen := f6.getLsbD 3
        mapperLo   := f6.extractLsb' 4 4
        mapperHi   := f7.extractLsb' 4 4 }
  else none

/-- `mapperId = mapperHi * 16 + mapperLo` (R383). -/
def Header.mapperId (h : Header) : Byte := h.mapperHi ++ h.mapperLo

/-- The initial mirroring mode (R386). -/
def Header.mirroring (h : Header) : Mirroring :=
  if h.fourScreen then .fourScreen else if h.mirrorBit then .vertical else .horizontal

/-- The lengths of the three parts of the body (R384). -/
def Header.trainerLength (h : Header) : Nat := if h.trainer then 512 else 0
def Header.prgLength (h : Header) : Nat := 16384 * h.prgCount
def Header.chrLength (h : Header) : Nat := 8192 * h.chrCount

/-- The trainer, program and character bytes of an image (R384). -/
def Header.trainerBytes (h : Header) (image : List Byte) : List Byte :=
  (image.drop 16).take h.trainerLength
def Header.prgBytes (h : Header) (image : List Byte) : List Byte :=
  (image.drop (16 + h.trainerLength)).take h.prgLength
def Header.chrBytes (h : Header) (image : List Byte) : List Byte :=
  (image.drop (16 + h.trainerLength + h.prgLength)).take h.chrLength

/-- Whether the image has every byte that the header declares (R384). -/
def Header.complete (h : Header) (image : List Byte) : Bool :=
  decide (16 + h.trainerLength + h.prgLength + h.chrLength ≤ image.length)

/-- One bit of the CRC-32, least significant bit first, reflected polynomial (R394). -/
def crcBit (c : BitVec 32) : BitVec 32 := if c.getLsbD 0 then (c >>> 1) ^^^ 0xEDB88320#32 else c >>> 1

/-- `n` bits of the CRC-32. -/
def crcBits (c : BitVec 32) : Nat → BitVec 32
  | 0 => c
  | n + 1 => crcBits (crcBit c) n

/-- One byte of the CRC-32. -/
def crcByte (c : BitVec 32) (b : Byte) : BitVec 32 := crcBits (c ^^^ b.zeroExtend 32) 8

/-- `CRC32` (R394): initial value and final XOR `0xFFFFFFFF`. -/
def crc32 (bytes : List Byte) : BitVec 32 := bytes.foldl crcByte 0xFFFFFFFF#32 ^^^ 0xFFFFFFFF#32

/-- `crc` (R394): trainer, program and the character bytes read from the image. -/
def Header.checksum (h : Header) (image : List Byte) : BitVec 32 :=
  crc32 (h.trainerBytes image ++ h.prgBytes image ++ h.chrBytes image)

/-- The mapper id after the correction by `MAPPER_FIX_TABLE` (R395). -/
def correctedMapperId (cfg : Config) (crc : BitVec 32) (id : Byte) : Byte :=
  (cfg.mapperFixTable.lookup crc).getD id

/-- The power-on state of the MMC1-class board (spec/70_reset_and_hazards.md R569). -/
def Mmc1.powerOn : Mmc1 := { shift := 0, count := 0, control := 0x0C, chr0 := 0, chr1 := 0, prgReg := 0 }

/-- The power-on state of the MMC3-class board (spec/70_reset_and_hazards.md R569). -/
def Mmc3.powerOn (cfg : Config) : Mmc3 :=
  { bankSelect := 0, bank := cfg.mmc3PowerOnR, irqLatch := 0, irqCounter := 0, irqReload := false, irqEnable := false }

/-- The power-on state of the two components a board may embed (spec/70_reset_and_hazards.md R569). -/
def CycleIrq.powerOn : CycleIrq := { latch := 0, counter := 0, prescaler := 0, enabled := false }
def NybbleRegs.powerOn : NybbleRegs :=
  { prgSlot := Vector.replicate 4 0, chrSlot := Vector.replicate 8 0, pendLo := Vector.replicate 12 0 }

/-- The board of a mapper id (R396): `none` where `SUPPORTED_MAPPERS` leaves the id out, or no implementation matches. -/
def boardFor (cfg : Config) (id : Byte) : Option Board :=
  if id ∈ cfg.supportedMappers then
    match id.toNat with
    | 0 => some .nrom
    | 1 => some (.mmc1 Mmc1.powerOn)
    | 4 => some (.mmc3 (Mmc3.powerOn cfg))
    | _ => none
  else none

/-- The cartridge that a header, an image and a board make, in its power-on state (R387 to R393,
spec/70_reset_and_hazards.md R569). No supported board embeds a component (spec/51_mapper_common.md section 6). -/
def buildCartridge (h : Header) (image : List Byte) (crc : BitVec 32) (id : Byte) (board : Board) : Cartridge :=
  { prg              := Memory.ofBytes (h.prgBytes image) 0
    prgLen           := h.prgLength
    chr              := Memory.ofBytes (h.chrBytes image) 0
    chrLen           := if h.chrCount = 0 then 8192 else h.chrLength
    chrIsRam         := decide (h.chrCount = 0)
    saveRam          := []
    dirty            := false
    mapperId         := id
    initialMirroring := h.mirroring
    battery          := h.battery
    crc              := crc
    mirroring        := h.mirroring
    board            := board
    cycleIrq         := none
    nybble           := none }

/-- `load(image)` (R380): the checks in the order signature, body length, mapper id (R397). A `prgCount` of 0 is a
`FormatError` (R384). DESIGN CHOICE (notes 17): `prgCount` is checked right after the signature, so an image with
`prgCount = 0` that is also shorter than its header declares fails with `FormatError`; the rules give no order of the
two. -/
def loadImage (cfg : Config) (image : List Byte) : Except LoadError Cartridge :=
  match parseHeader image with
  | none => .error .format
  | some h =>
    if h.prgCount = 0 then .error .format
    else if h.complete image then
      let crc := h.checksum image
      let id := correctedMapperId cfg crc h.mapperId
      match boardFor cfg id with
      | some board => .ok (buildCartridge h image crc id board)
      | none => .error .unsupportedMapper
    else .error .truncated

end Sys2Proof.Machine
end

