-- ==== Sys2Proof/Machine/HostCalls.lean ====
section
/-! DEFINITION. The host's transactions between steps (spec/10_state.md R51 to R56, spec/70_reset_and_hazards.md R576): they
take effect in the order made, each completely. `step` itself is Machine/Step.lean. A call starts with nothing shown outside
(notes 4) and leaves the step's return value alone. -/

namespace Sys2Proof.Machine

/-- Power-on (spec/70_reset_and_hazards.md R568): the processor is created with `POWERON_AXY` and `cycles = 0`, and `reset()`
sets every other field. RAM is the bus's (notes 2), and so are the devices (notes 1). -/
def State.powerOn (cfg : Config) (ram : Memory) (cart : Option Cartridge) (replies : List Reply) : State :=
  State.resetCpu
    { a := cfg.powerOnA, x := cfg.powerOnX, y := cfg.powerOnY, sp := 0, pc := 0, p := 0, cycles := 0, stall := 0,
      pending := .none, halted := false, ram := ram, cart := cart, cfg := cfg, replies := replies,
      returned := 0, events := [] }

/-- A cartridge operation of the host whose events reach the processor at once, between steps (spec/51_mapper_common.md
R425); with no cartridge there is no mapper to call. -/
def State.withCart (s : State) (f : Cartridge → Cartridge × List BusEvent) : State :=
  match s.cart with
  | some c => (s.setCart (some (f c).1)).receiveAll (f c).2
  | none => s

/-- The save-RAM that a restore of 8192 bytes leaves, read verbatim as a flat sequence; `dirty` is not set
(spec/50_cartridge.md R391). -/
def Cartridge.restoreSaveRam (c : Cartridge) (bytes : List Byte) : Cartridge :=
  if bytes.length = 8192 then { c with saveRam := Memory.ofBytes bytes 0 } else c

/-- The save-RAM as the host persists it: 8192 bytes, verbatim (spec/50_cartridge.md R391). -/
def Cartridge.saveRamBytes (c : Cartridge) : List Byte := c.saveRam.toBytes 0 8192

/-- The transactions of the host between steps. -/
inductive HostCall where
  /-- `reset()` (spec/70_reset_and_hazards.md R560) -/
  | reset
  /-- `signal NMI` (spec/60_exceptions.md R522) -/
  | signalNmi
  /-- `signal IRQ` (spec/60_exceptions.md R521) -/
  | signalIrq
  /-- `cancel IRQ` (spec/60_exceptions.md R524) -/
  | cancelIrq
  /-- `addStall(n)` (spec/10_state.md R55) -/
  | addStall (n : Nat)
  /-- `stepVideo` (spec/51_mapper_common.md R423) -/
  | stepVideo (scanline cycle : Int) (showBackground showSprites : Bool)
  /-- `tickCpu(n)` (spec/51_mapper_common.md R426) -/
  | tickCpu (n : Nat)
  /-- the mapper's `write(a, v)` from outside the processor: the video component's side of its index space
  (spec/20_memory.md R72, spec/51_mapper_common.md R410) -/
  | mapperWrite (a : Word) (v : Byte)
  /-- `load(image)` (spec/50_cartridge.md R380, R397, R398) -/
  | load (image : List Byte)
  /-- restore of the save-RAM (spec/50_cartridge.md R391) -/
  | restoreSaveRam (bytes : List Byte)
  /-- the devices on the bus settle what they will answer to the accesses to come (spec/10_state.md R57,
  spec/60_exceptions.md R538; notes 1) -/
  | devices (replies : List Reply)
  /-- the host clears `dirty` after persisting (spec/50_cartridge.md R392) -/
  | clearDirty
  deriving DecidableEq, Repr

/-- A load replaces the cartridge and its mapper and leaves the processor alone; a failed load leaves everything
(spec/50_cartridge.md R397, R398). -/
def State.load (s : State) (image : List Byte) : State :=
  match loadImage s.cfg image with
  | .ok c => s.setCart (some c)
  | .error _ => s

/-- One transaction of the host. -/
def State.hostCall (s : State) (call : HostCall) : State :=
  let s1 := s.begin
  match call with
  | .reset => s1.resetCpu
  | .signalNmi => s1.signalNmi
  | .signalIrq => s1.signalIrq
  | .cancelIrq => s1.cancelIrq
  | .addStall n => s1.addStall n
  | .stepVideo sl cy bg sp => s1.withCart fun c => c.stepVideo s.cfg sl cy bg sp
  | .tickCpu n => s1.withCart fun c => c.tickCpu s.cfg n
  | .mapperWrite a v => s1.withCart fun c => c.write s.cfg a v
  | .load image => s1.load image
  | .restoreSaveRam bytes => s1.withCart fun c => (c.restoreSaveRam bytes, [])
  | .devices rs => s1.setReplies rs
  | .clearDirty => s1.withCart fun c => ({ c with dirty := false }, [])

/-! ### What the host reads -/

/-- The mapper's `read(a)` from outside the processor (spec/20_memory.md R72); it changes nothing
(spec/51_mapper_common.md R429). -/
def State.mapperRead (s : State) (a : Word) : Option Byte := s.cart.map fun c => c.read a

/-- The mapper's `mirroring` output (spec/51_mapper_common.md R420). -/
def State.mirroring (s : State) : Option Mirroring := s.cart.map fun c => c.mirroring

/-- The mapper's `name` output (spec/51_mapper_common.md R430). -/
def State.mapperName (s : State) : Option String := s.cart.map fun c => c.board.name

end Sys2Proof.Machine
end

