-- ==== Sys2Proof/Safety.lean ====
section
/-! DEFINITION. The terms that claims are stated in: the invariant of the machine, and the relations between the state before
and the state after an instruction (what it leaves unchanged, what it stores and where, what it shows on the bus). Every run
of this machine is safe in the plain sense that no step faults (spec/60_exceptions.md R532). -/

namespace Sys2Proof.Machine

/-! ### The invariant -/

/-- A memory in canonical form that lists only addresses below `n`. -/
def Memory.within (m : Memory) (n : Nat) : Bool := m.wf && m.fits n

/-- The shift register of the MMC1-class board holds fewer than five bits, and no bit that has not been received
(spec/52_mapper_boards.md R460). -/
structure Mmc1.Inv (m : Mmc1) : Prop where
  count_lt : m.count < 5
  shift_lt : m.shift.toNat < 2 ^ m.count

/-- The board's part of the invariant, with what each board can do to the mirroring mode (spec/52_mapper_boards.md R450,
R462, R486). -/
def Cartridge.BoardInv (c : Cartridge) : Prop :=
  match c.board with
  | .nrom => c.mirroring = c.initialMirroring
  | .mmc1 m => m.Inv
  | .mmc3 _ => c.initialMirroring = .fourScreen → c.mirroring = .fourScreen

/-- A cartridge is as a load makes it and as the mapper keeps it: arrays in canonical form and of whole banks
(spec/50_cartridge.md R388, R389, R391, spec/51_mapper_common.md R416), mirroring modes that exist on a supported board (R420),
a prescaler below its divide ratio (R426). -/
structure Cartridge.Inv (cfg : Config) (c : Cartridge) : Prop where
  prg_within     : c.prg.within c.prgLen = true
  prgLen_pos     : 0 < c.prgLen
  prgLen_banks   : c.prgLen % 16384 = 0
  chr_within     : c.chr.within c.chrLen = true
  chrLen_pos     : 0 < c.chrLen
  chrLen_banks   : c.chrLen % 8192 = 0
  saveRam_within : c.saveRam.within 8192 = true
  header_mode    : c.initialMirroring ∈ [Mirroring.horizontal, .vertical, .fourScreen]
  mode           : c.mirroring ∉ [Mirroring.diagonal, .lShaped]
  board          : c.BoardInv
  prescaler_lt   : ∀ g, c.cycleIrq = some g → 0 < cfg.cycleIrqDivide → g.prescaler < cfg.cycleIrqDivide

/-- The invariant of the machine: RAM in canonical form within the address space; the stored flag byte with bit 5 set and
bit 4 clear (spec/10_state.md R41, R42), as `RESET_P` has them; the cartridge, if any, as above. -/
structure State.Inv (s : State) : Prop where
  ram_within  : s.ram.within 65536 = true
  always_set  : s.flag .u = true
  break_clear : s.flag .b = false
  reset_u     : getFlag s.cfg.resetP .u = true
  reset_b     : getFlag s.cfg.resetP .b = false
  cart        : ∀ c, s.cart = some c → c.Inv s.cfg

/-! ### The opcodes of an instruction -/

/-- The operand of a mode with the bytes that follow the opcode (spec/30_encoding.md R100, R103). -/
def operandOf (m : Mode) (b1 b2 : Byte) : Operand :=
  match m with
  | .imp => .imp
  | .acc => .acc
  | .imm => .imm b1
  | .zp => .zp b1
  | .zpx => .zpx b1
  | .zpy => .zpy b1
  | .abs => .abs (w16 b2 b1)
  | .abx => .abx (w16 b2 b1)
  | .aby => .aby (w16 b2 b1)
  | .ind => .ind (w16 b2 b1)
  | .izx => .izx b1
  | .izy => .izy b1
  | .rel => .rel b1

/-- The opcode byte selects the instruction, whose base cost and page penalty are these. -/
def IsOpcode (op : Byte) (i : Instr) (cycles : Nat) (pagePenalty : Bool) : Prop :=
  i.opcode = some op ∧ i.baseCycles = cycles ∧ i.pagePenalty = pagePenalty

/-- The opcodes of an instruction: each byte with its mode, base cost and page penalty. -/
def Opcodes (f : Operand → Instr) (rows : List (Byte × Mode × Nat × Bool)) : Prop :=
  ∀ b1 b2, ∀ r ∈ rows, decodeBytes r.1 b1 b2 = f (operandOf r.2.1 b1 b2) ∧
    IsOpcode r.1 (f (operandOf r.2.1 b1 b2)) r.2.2.1 r.2.2.2

/-! ### The opcode table of the spec -/

namespace OpcodeTable

/-- A row of spec/opcode_table.json: mnemonic, mode, base cycles, page penalty. -/
abbrev Row := String × Mode × Nat × Bool

/-- Opcodes `$00` to `$0F` (spec/30_encoding.md R104, spec/opcode_table.json). -/
def row0 : List Row :=
  [("BRK", .imp, 7, false), ("ORA", .izx, 6, false), ("KIL", .imp, 2, false), ("SLO", .izx, 8, false),
   ("NOP", .zp, 3, false), ("ORA", .zp, 3, false), ("ASL", .zp, 5, false), ("SLO", .zp, 5, false),
   ("PHP", .imp, 3, false), ("ORA", .imm, 2, false), ("ASL", .acc, 2, false), ("ANC", .imm, 2, false),
   ("NOP", .abs, 4, false), ("ORA", .abs, 4, false), ("ASL", .abs, 6, false), ("SLO", .abs, 6, false)]

/-- Opcodes `$10` to `$1F` (spec/30_encoding.md R104, spec/opcode_table.json). -/
def row1 : List Row :=
  [("BPL", .rel, 2, false), ("ORA", .izy, 5, true), ("KIL", .imp, 2, false), ("SLO", .izy, 8, false),
   ("NOP", .zpx, 4, false), ("ORA", .zpx, 4, false), ("ASL", .zpx, 6, false), ("SLO", .zpx, 6, false),
   ("CLC", .imp, 2, false), ("ORA", .aby, 4, true), ("NOP", .imp, 2, false), ("SLO", .aby, 7, false),
   ("NOP", .abx, 4, true), ("ORA", .abx, 4, true), ("ASL", .abx, 7, false), ("SLO", .abx, 7, false)]

/-- Opcodes `$20` to `$2F` (spec/30_encoding.md R104, spec/opcode_table.json). -/
def row2 : List Row :=
  [("JSR", .abs, 6, false), ("AND", .izx, 6, false), ("KIL", .imp, 2, false), ("RLA", .izx, 8, false),
   ("BIT", .zp, 3, false), ("AND", .zp, 3, false), ("ROL", .zp, 5, false), ("RLA", .zp, 5, false),
   ("PLP", .imp, 4, false), ("AND", .imm, 2, false), ("ROL", .acc, 2, false), ("ANC", .imm, 2, false),
   ("BIT", .abs, 4, false), ("AND", .abs, 4, false), ("ROL", .abs, 6, false), ("RLA", .abs, 6, false)]

/-- Opcodes `$30` to `$3F` (spec/30_encoding.md R104, spec/opcode_table.json). -/
def row3 : List Row :=
  [("BMI", .rel, 2, false), ("AND", .izy, 5, true), ("KIL", .imp, 2, false), ("RLA", .izy, 8, false),
   ("NOP", .zpx, 4, false), ("AND", .zpx, 4, false), ("ROL", .zpx, 6, false), ("RLA", .zpx, 6, false),
   ("SEC", .imp, 2, false), ("AND", .aby, 4, true), ("NOP", .imp, 2, false), ("RLA", .aby, 7, false),
   ("NOP", .abx, 4, true), ("AND", .abx, 4, true), ("ROL", .abx, 7, false), ("RLA", .abx, 7, false)]

/-- Opcodes `$40` to `$4F` (spec/30_encoding.md R104, spec/opcode_table.json). -/
def row4 : List Row :=
  [("RTI", .imp, 6, false), ("EOR", .izx, 6, false), ("KIL", .imp, 2, false), ("SRE", .izx, 8, false),
   ("NOP", .zp, 3, false), ("EOR", .zp, 3, false), ("LSR", .zp, 5, false), ("SRE", .zp, 5, false),
   ("PHA", .imp, 3, false), ("EOR", .imm, 2, false), ("LSR", .acc, 2, false), ("ALR", .imm, 2, false),
   ("JMP", .abs, 3, false), ("EOR", .abs, 4, false), ("LSR", .abs, 6, false), ("SRE", .abs, 6, false)]

/-- Opcodes `$50` to `$5F` (spec/30_encoding.md R104, spec/opcode_table.json). -/
def row5 : List Row :=
  [("BVC", .rel, 2, false), ("EOR", .izy, 5, true), ("KIL", .imp, 2, false), ("SRE", .izy, 8, false),
   ("NOP", .zpx, 4, false), ("EOR", .zpx, 4, false), ("LSR", .zpx, 6, false), ("SRE", .zpx, 6, false),
   ("CLI", .imp, 2, false), ("EOR", .aby, 4, true), ("NOP", .imp, 2, false), ("SRE", .aby, 7, false),
   ("NOP", .abx, 4, true), ("EOR", .abx, 4, true), ("LSR", .abx, 7, false), ("SRE", .abx, 7, false)]

/-- Opcodes `$60` to `$6F` (spec/30_encoding.md R104, spec/opcode_table.json). -/
def row6 : List Row :=
  [("RTS", .imp, 6, false), ("ADC", .izx, 6, false), ("KIL", .imp, 2, false), ("RRA", .izx, 8, false),
   ("NOP", .zp, 3, false), ("ADC", .zp, 3, false), ("ROR", .zp, 5, false), ("RRA", .zp, 5, false),
   ("PLA", .imp, 4, false), ("ADC", .imm, 2, false), ("ROR", .acc, 2, false), ("ARR", .imm, 2, false),
   ("JMP", .ind, 5, false), ("ADC", .abs, 4, false), ("ROR", .abs, 6, false), ("RRA", .abs, 6, false)]

/-- Opcodes `$70` to `$7F` (spec/30_encoding.md R104, spec/opcode_table.json). -/
def row7 : List Row :=
  [("BVS", .rel, 2, false), ("ADC", .izy, 5, true), ("KIL", .imp, 2, false), ("RRA", .izy, 8, false),
   ("NOP", .zpx, 4, false), ("ADC", .zpx, 4, false), ("ROR", .zpx, 6, false), ("RRA", .zpx, 6, false),
   ("SEI", .imp, 2, false), ("ADC", .aby, 4, true), ("NOP", .imp, 2, false), ("RRA", .aby, 7, false),
   ("NOP", .abx, 4, true), ("ADC", .abx, 4, true), ("ROR", .abx, 7, false), ("RRA", .abx, 7, false)]

/-- Opcodes `$80` to `$8F` (spec/30_encoding.md R104, spec/opcode_table.json). -/
def row8 : List Row :=
  [("NOP", .imm, 2, false), ("STA", .izx, 6, false), ("NOP", .imm, 2, false), ("SAX", .izx, 6, false),
   ("STY", .zp, 3, false), ("STA", .zp, 3, false), ("STX", .zp, 3, false), ("SAX", .zp, 3, false),
   ("DEY", .imp, 2, false), ("NOP", .imm, 2, false), ("TXA", .imp, 2, false), ("XAA", .imm, 2, false),
   ("STY", .abs, 4, false), ("STA", .abs, 4, false), ("STX", .abs, 4, false), ("SAX", .abs, 4, false)]

/-- Opcodes `$90` to `$9F` (spec/30_encoding.md R104, spec/opcode_table.json). -/
def row9 : List Row :=
  [("BCC", .rel, 2, false), ("STA", .izy, 6, false), ("KIL", .imp, 2, false), ("AHX", .izy, 6, false),
   ("STY", .zpx, 4, false), ("STA", .zpx, 4, false), ("STX", .zpy, 4, false), ("SAX", .zpy, 4, false),
   ("TYA", .imp, 2, false), ("STA", .aby, 5, false), ("TXS", .imp, 2, false), ("TAS", .aby, 5, false),
   ("SHY", .abx, 5, false), ("STA", .abx, 5, false), ("SHX", .aby, 5, false), ("AHX", .aby, 5, false)]

/-- Opcodes `$A0` to `$AF` (spec/30_encoding.md R104, spec/opcode_table.json). -/
def rowA : List Row :=
  [("LDY", .imm, 2, false), ("LDA", .izx, 6, false), ("LDX", .imm, 2, false), ("LAX", .izx, 6, false),
   ("LDY", .zp, 3, false), ("LDA", .zp, 3, false), ("LDX", .zp, 3, false), ("LAX", .zp, 3, false),
   ("TAY", .imp, 2, false), ("LDA", .imm, 2, false), ("TAX", .imp, 2, false), ("LAX", .imm, 2, false),
   ("LDY", .abs, 4, false), ("LDA", .abs, 4, false), ("LDX", .abs, 4, false), ("LAX", .abs, 4, false)]

/-- Opcodes `$B0` to `$BF` (spec/30_encoding.md R104, spec/opcode_table.json). -/
def rowB : List Row :=
  [("BCS", .rel, 2, false), ("LDA", .izy, 5, true), ("KIL", .imp, 2, false), ("LAX", .izy, 5, true),
   ("LDY", .zpx, 4, false), ("LDA", .zpx, 4, false), ("LDX", .zpy, 4, false), ("LAX", .zpy, 4, false),
   ("CLV", .imp, 2, false), ("LDA", .aby, 4, true), ("TSX", .imp, 2, false), ("LAS", .aby, 4, true),
   ("LDY", .abx, 4, true), ("LDA", .abx, 4, true), ("LDX", .aby, 4, true), ("LAX", .aby, 4, true)]

/-- Opcodes `$C0` to `$CF` (spec/30_encoding.md R104, spec/opcode_table.json). -/
def rowC : List Row :=
  [("CPY", .imm, 2, false), ("CMP", .izx, 6, false), ("NOP", .imm, 2, false), ("DCP", .izx, 8, false),
   ("CPY", .zp, 3, false), ("CMP", .zp, 3, false), ("DEC", .zp, 5, false), ("DCP", .zp, 5, false),
   ("INY", .imp, 2, false), ("CMP", .imm, 2, false), ("DEX", .imp, 2, false), ("AXS", .imm, 2, false),
   ("CPY", .abs, 4, false), ("CMP", .abs, 4, false), ("DEC", .abs, 6, false), ("DCP", .abs, 6, false)]

/-- Opcodes `$D0` to `$DF` (spec/30_encoding.md R104, spec/opcode_table.json). -/
def rowD : List Row :=
  [("BNE", .rel, 2, false), ("CMP", .izy, 5, true), ("KIL", .imp, 2, false), ("DCP", .izy, 8, false),
   ("NOP", .zpx, 4, false), ("CMP", .zpx, 4, false), ("DEC", .zpx, 6, false), ("DCP", .zpx, 6, false),
   ("CLD", .imp, 2, false), ("CMP", .aby, 4, true), ("NOP", .imp, 2, false), ("DCP", .aby, 7, false),
   ("NOP", .abx, 4, true), ("CMP", .abx, 4, true), ("DEC", .abx, 7, false), ("DCP", .abx, 7, false)]

/-- Opcodes `$E0` to `$EF` (spec/30_encoding.md R104, spec/opcode_table.json). -/
def rowE : List Row :=
  [("CPX", .imm, 2, false), ("SBC", .izx, 6, false), ("NOP", .imm, 2, false), ("ISC", .izx, 8, false),
   ("CPX", .zp, 3, false), ("SBC", .zp, 3, false), ("INC", .zp, 5, false), ("ISC", .zp, 5, false),
   ("INX", .imp, 2, false), ("SBC", .imm, 2, false), ("NOP", .imp, 2, false), ("SBC", .imm, 2, false),
   ("CPX", .abs, 4, false), ("SBC", .abs, 4, false), ("INC", .abs, 6, false), ("ISC", .abs, 6, false)]

/-- Opcodes `$F0` to `$FF` (spec/30_encoding.md R104, spec/opcode_table.json). -/
def rowF : List Row :=
  [("BEQ", .rel, 2, false), ("SBC", .izy, 5, true), ("KIL", .imp, 2, false), ("ISC", .izy, 8, false),
   ("NOP", .zpx, 4, false), ("SBC", .zpx, 4, false), ("INC", .zpx, 6, false), ("ISC", .zpx, 6, false),
   ("SED", .imp, 2, false), ("SBC", .aby, 4, true), ("NOP", .imp, 2, false), ("ISC", .aby, 7, false),
   ("NOP", .abx, 4, true), ("SBC", .abx, 4, true), ("INC", .abx, 7, false), ("ISC", .abx, 7, false)]

/-- The 256 rows in the order of their opcode bytes. -/
def all : List Row :=
  row0 ++ row1 ++ row2 ++ row3 ++ row4 ++ row5 ++ row6 ++ row7 ++
  row8 ++ row9 ++ rowA ++ rowB ++ rowC ++ rowD ++ rowE ++ rowF

end OpcodeTable

/-! ### What an instruction leaves unchanged -/

/-- The four byte registers of spec/10_state.md R31 to R34. -/
inductive Reg where
  | a | x | y | sp
  deriving DecidableEq, Repr

/-- A byte register of the state. -/
def State.reg (s : State) : Reg → Byte
  | .a => s.a
  | .x => s.x
  | .y => s.y
  | .sp => s.sp

/-- Every byte register but the listed ones is unchanged. -/
def RegsKept (written : List Reg) (s t : State) : Prop := ∀ r, r ∉ written → t.reg r = s.reg r

/-- Every bit of P but the listed flags is unchanged. -/
def FlagsKept (written : List Flag) (s t : State) : Prop := ∀ f, f ∉ written → t.flag f = s.flag f

/-- The zero and negative flags are those of a byte (spec/41_alu.md R171). -/
def NZOf (v : Byte) (t : State) : Prop := (t.flag .z = true ↔ v = 0) ∧ t.flag .n = v.getLsbD 7

/-- What no instruction but KIL writes: lock-up state, configuration (and the last return value, which the step writes and not
the instruction). -/
structure ControlKept (s t : State) : Prop where
  halted   : t.halted = s.halted
  cfg      : t.cfg = s.cfg
  returned : t.returned = s.returned

/-- The storage behind the bus and the bus itself are unchanged, and every byte of memory reads as before. A device window is
no memory: what it answers next is said by the replies (`OutsideAs`). -/
structure StorageKept (s t : State) : Prop where
  ram   : t.ram = s.ram
  cart  : t.cart = s.cart
  cfg   : t.cfg = s.cfg
  bytes : ∀ a, s.route a ≠ .device → t.peek a = s.peek a

/-- State t shows the same transactions as u, and the devices' reactions to them have left the same request, the same stall
counter and the same replies to come. Where u is s with a list of accesses made, t has made exactly those after s. -/
structure OutsideAs (u t : State) : Prop where
  events  : t.events = u.events
  pending : t.pending = u.pending
  stall   : t.stall = u.stall
  replies : t.replies = u.replies

/-- PC and the cycle counter are as step 5 leaves them (spec/40_step_and_addressing.md R137). -/
structure Advanced (i : Instr) (s t : State) : Prop where
  pc     : t.pc = s.pc + BitVec.ofNat 16 i.size
  cycles : t.cycles = s.cycles +
    BitVec.ofNat 64 (stepCycles i s.cfg.pagePenaltyMode (resolve i.operand s).crossed)

/-! ### What an instruction stores -/

/-- The byte v has been stored at address a and nowhere else. Where RAM answers a, every address of the same RAM cell reads v
and every other address reads as before. Where the mapper answers, RAM is unchanged, the cartridge is what the mapper's write
makes it, and every address outside the mapper's windows reads as before; a write to save-RAM is seen at that one address, a
write to the mapper's open-bus range nowhere. Where another device or nothing answers, no storage changes
(spec/20_memory.md R79). -/
def Stored (a : Word) (v : Byte) (s t : State) : Prop :=
  t.cfg = s.cfg ∧
  match s.route a with
  | .ram k =>
    t.ram = s.ram.write k v ∧ t.cart = s.cart ∧
      ∀ b, s.route b ≠ .device → t.peek b = if s.route b = .ram k then v else s.peek b
  | .mapper c =>
    t.ram = s.ram ∧ t.cart = some (c.write s.cfg a v).1 ∧
      (∀ b, s.route b ≠ .device → s.route b ≠ .mapper c → t.peek b = s.peek b) ∧
      (0x6000 ≤ a.toNat ∧ a.toNat < 0x8000 →
        ∀ b, s.route b ≠ .device → t.peek b = if b = a then v else s.peek b) ∧
      (0x2000 ≤ a.toNat ∧ a.toNat < 0x6000 → ∀ b, s.route b ≠ .device → t.peek b = s.peek b)
  | .device | .unclaimed => StorageKept s t

/-- The listed bytes have been stored one after another, and nothing else. -/
def StoredAll : List (Word × Byte) → State → State → Prop
  | [], s, t => StorageKept s t
  | (a, v) :: ws, s, t => ∃ m, Stored a v s m ∧ StoredAll ws m t

/-- The state after several writes, in order. -/
def State.busWrites (s : State) (stores : List (Word × Byte)) : State :=
  stores.foldl (fun s q => s.busWrite q.1 q.2) s

/-! ### The shapes of an instruction's effect -/

/-- From s to t the instruction has written only the listed registers and flags and has stored nothing; the accesses it has
made, and what the devices made of them, are those of u. PC and the cycle counter are said apart (`Advanced`, or the
instruction's own). -/
structure RegisterEffect (regs : List Reg) (flags : List Flag) (u s t : State) : Prop where
  regs    : RegsKept regs s t
  flags   : FlagsKept flags s t
  control : ControlKept s t
  storage : StorageKept s t
  outside : OutsideAs u t

/-- From s to t the instruction has written only the listed registers and flags and has stored exactly the listed bytes; the
accesses it has made, and what the devices and the mapper made of them, are those of u. -/
structure StoreEffect (regs : List Reg) (flags : List Flag) (stores : List (Word × Byte)) (u s t : State) : Prop where
  regs    : RegsKept regs s t
  flags   : FlagsKept flags s t
  control : ControlKept s t
  stored  : StoredAll stores s t
  outside : OutsideAs u t

/-! ### The checksum of an image -/

/-- The CRC-32 register after one more message bit, with the reflected polynomial of spec/50_cartridge.md R394. -/
def crcMessageBit (r : BitVec 32) (b : Bool) : BitVec 32 :=
  if (r.getLsbD 0 ^^ b) = true then (r >>> 1) ^^^ 0xEDB88320#32 else r >>> 1

/-- The CRC-32 of R394 one message bit at a time: each byte least significant bit first, initial value and final XOR
`0xFFFFFFFF`. -/
def bitwiseCrc32 (bytes : List Byte) : BitVec 32 :=
  bytes.foldl (fun r v => (List.range 8).foldl (fun r k => crcMessageBit r (v.getLsbD k)) r)
    0xFFFFFFFF#32 ^^^ 0xFFFFFFFF#32

/-! ### Clocks in a row -/

/-- The MMC3-class registers after `k` clocks of the scanline counter. -/
def Mmc3.afterClocks (mode : Mmc3IrqMode) (m : Mmc3) : Nat → Mmc3
  | 0 => m
  | k + 1 => ((m.afterClocks mode k).clock mode).1

/-- The cycle-based IRQ generator after `k` CPU cycles. -/
def CycleIrq.afterTicks (divide : Nat) (g : CycleIrq) : Nat → CycleIrq
  | 0 => g
  | k + 1 => ((g.afterTicks divide k).tick divide).1

end Sys2Proof.Machine
end

