-- ==== Sys2Proof/Certificates/Slice0/Obligations.lean ====
section
/-! DEFINITION. The statements for the provers. Each docstring names the rules of spec/ it formalises. `StorageKept`, `Stored`,
`RegisterEffect` and `StoreEffect` (Sys2Proof/Safety.lean) say what an instruction leaves unchanged and what it stores; `Opcodes`
says which bytes select it, at which cost. The accesses of an instruction are said by a state: `s.busReads as` and
`s.busWrites stores` are s with those accesses made, and `OutsideAs` compares what was shown and what the devices made of it. -/

open Sys2Proof Sys2Proof.Machine

/-- R560 to R568, R570. The default bus and the absence of replies (notes 1) and the RAM that lists nothing (notes 2) are the
model's choices. -/
def Obligations.ResetState : Prop :=
  State.reset.sp = 0xFD ∧ State.reset.p = 0x24 ∧ State.reset.pc = State.reset.read16 0xFFFC ∧
  State.reset.a = 0 ∧ State.reset.x = 0 ∧ State.reset.y = 0 ∧ State.reset.cycles = 0 ∧
  State.reset.stall = 0 ∧ State.reset.pending = .none ∧ State.reset.halted = false ∧
  State.reset = State.powerOn Config.default [] none []

/-- R570 with R41 and R42: the premise of `StepKeepsInvariant` holds at reset. -/
def Obligations.ResetMeetsInvariant : Prop :=
  State.reset.Inv

/-- R560, R567. -/
def Obligations.ResetTransaction : Prop :=
  ∀ s : State,
    let v := s.cfg.vecReset
    let s1 := s.setEvents []
    let t := s.hostCall .reset
    t.pc = w16 ((s1.busRead v).peek (v + 1)) (s1.peek v) ∧ t.sp = s.cfg.resetSp ∧
    t.p = s.cfg.resetP ∧ t.stall = 0 ∧ t.pending = .none ∧ t.halted = false ∧
    t.a = s.a ∧ t.x = s.x ∧ t.y = s.y ∧ t.cycles = s.cycles ∧ StorageKept s t ∧
    t.events = [.read v (s1.peek v), .read (v + 1) ((s1.busRead v).peek (v + 1))] ∧ t.replies = s.replies.drop 2

/-- R105, R532: "there is no recoverable error during normal execution". -/
def Obligations.StepNeverStops : Prop :=
  ∀ s : State, ∃ t, step s = .next t

/-- R41, R42 (bits 4 and 5 of P), R85 and R414 (memories), R420 (mirroring), R460 (shift register). -/
def Obligations.StepKeepsInvariant : Prop :=
  ∀ s t : State, s.Inv → step s = .next t → t.Inv

/-- R388, R389, R391, R397, R416, R569: what a load builds and every other transaction keeps. -/
def Obligations.HostCallsKeepInvariant : Prop :=
  ∀ (s : State) (call : HostCall), s.Inv → (s.hostCall call).Inv

/-- R49, R79, R387, R388, R414: a whole-machine rule, over every instruction and every interrupt entry. -/
def Obligations.StepKeepsProgramStoreAndConfiguration : Prop :=
  ∀ s t : State, step s = .next t →
    t.cfg = s.cfg ∧ (s.cart = none → t.cart = none) ∧
    ∀ c, s.cart = some c → ∃ d, t.cart = some d ∧ d.prg = c.prg ∧ d.prgLen = c.prgLen ∧ d.chrLen = c.chrLen ∧
      d.chrIsRam = c.chrIsRam ∧ d.mapperId = c.mapperId ∧ d.initialMirroring = c.initialMirroring ∧
      d.battery = c.battery ∧ d.crc = c.crc

/-- R100, R103, R104. -/
def Obligations.DecodeOfEncodeIsTheInstruction : Prop :=
  ∀ (i : Instr) (rest : List Byte), i.wellFormed = true → decode (encode i ++ rest) = .ok (i, rest)

/-- R100, R103, R104. -/
def Obligations.EncodeOfDecodeIsTheBytes : Prop :=
  ∀ (bytes rest : List Byte) (i : Instr), decode bytes = .ok (i, rest) → i.wellFormed = true ∧ encode i ++ rest = bytes

/-- R104 and spec/opcode_table.json. -/
def Obligations.OpcodeMapIsTheTable : Prop :=
  (List.range 256).map (fun n =>
    let i := decodeBytes (BitVec.ofNat 8 n) 0 0
    (i.mnemonic, i.operand.mode, i.baseCycles, i.pagePenalty)) = OpcodeTable.all

/-- R105; the sizes are R101. -/
def Obligations.DecodingIsTotalAndSizedByMode : Prop :=
  (∀ op b1 b2 : Byte, ∀ rest : List Byte,
    let i := decodeBytes op b1 b2
    i.wellFormed = true ∧ i.opcode = some op ∧
    i.mnemonic = (decodeBytes op 0 0).mnemonic ∧ i.operand.mode = (decodeBytes op 0 0).operand.mode ∧
    i.size = (decodeBytes op 0 0).size ∧
    decode (op :: b1 :: b2 :: rest) = .ok (i, (op :: b1 :: b2 :: rest).drop i.size)) ∧
  ∀ i : Instr, i.size = match i.operand.mode with
    | .imp | .acc => 1
    | .imm | .zp | .zpx | .zpy | .izx | .izy | .rel => 2
    | .abs | .abx | .aby | .ind => 3

/-- R100, R103, R104. -/
def Obligations.DecodeWords : Prop :=
  decode [0xA9, 0x80] = .ok (.lda (.imm 0x80), []) ∧
  decode [0x8D, 0x00, 0x02] = .ok (.sta (.abs 0x0200), []) ∧
  decode [0x61, 0x10] = .ok (.adc (.izx 0x10), []) ∧
  decode [0x7E, 0xF0, 0x12] = .ok (.ror (.abx 0x12F0), []) ∧
  decode [0xF0, 0xFE] = .ok (.beq 0xFE, []) ∧
  decode [0x6C, 0xFF, 0x02] = .ok (.jmp (.ind 0x02FF), []) ∧
  decode [0x20, 0x00, 0x90] = .ok (.jsr 0x9000, []) ∧
  decode [0x00] = .ok (.brk, []) ∧ decode [0x48] = .ok (.pha, []) ∧
  decode [0x13, 0x10] = .ok (.slo (.izy 0x10), []) ∧
  decode [0xB7, 0x10] = .ok (.lax (.zpy 0x10), []) ∧
  decode [0x1C, 0xF0, 0x00] = .ok (.nopAbx 0 0x00F0, []) ∧
  decode [0x02] = .ok (.kil 0, [])

/-- R131, R134, R135, R138, R139, R140. -/
def Obligations.StepRunsTheDecodedInstruction : Prop :=
  ∀ (s : State) (i : Instr) (rest : List Byte), s.halted = false → s.stall = 0 →
    let s1 := s.begin.takePending
    let s2 := s1.busRead s1.pc
    let s3 := s2.busRead (s1.pc + 1)
    let fetched := match i.operand with
      | .imp | .acc | .imm _ => s2
      | .zp _ | .zpx _ | .zpy _ | .izx _ | .izy _ | .rel _ => s3
      | .abs _ | .abx _ | .aby _ | .ind _ => s3.busRead (s1.pc + 2)
    decode [s1.peek s1.pc, s2.peek (s1.pc + 1), s3.peek (s1.pc + 2)] = .ok (i, rest) →
    ∃ t, exec i fetched = .next t ∧ step s = .next (t.setReturned (t.cycles - s.cycles))

/-- R132, R531. -/
def Obligations.LockUpIsLeftOnlyByReset : Prop :=
  (∀ s : State, s.halted = true →
    step s = .next ((s.setEvents []).setReturned 0) ∧
    (∀ call : HostCall, call ≠ .reset → (s.hostCall call).halted = true) ∧
    (s.hostCall .reset).halted = false ∧
    (s.hostCall .signalNmi).pending = .nmi ∧
    (s.hostCall .signalIrq).pending =
      (if s.pending = .nmi ∨ (s.cfg.irqMaskPoint = .request ∧ s.flag .i = true) then s.pending else .irq) ∧
    ∀ n, (s.hostCall (.addStall n)).stall = s.stall + n) ∧
  ∀ s t : State, s.halted = false → step s = .next t → t.returned ≠ 0

/-- R133. -/
def Obligations.StallStep : Prop :=
  ∀ s : State, s.halted = false → 0 < s.stall →
    step s = .next (((s.setEvents []).setStall (s.stall - 1)).setReturned 1)

/-- R525, R526, R527. -/
def Obligations.InterruptEntry : Prop :=
  ∀ s : State, s.entersInterrupt = true →
    let t := s.takePending
    let vec := if s.pending = .nmi then s.cfg.vecNmi else s.cfg.vecIrq
    let pushed := (s.p &&& 0xEF) ||| (if s.cfg.intPushB = true then 0x10 else 0) ||| 0x20
    let stores := [(stackAddr s.sp, hi s.pc), (stackAddr (s.sp - 1), lo s.pc), (stackAddr (s.sp - 2), pushed)]
    let s1 := (s.busWrites stores).setFlag .i true
    StoreEffect [.sp] [.i] stores ((s1.busReads [vec, vec + 1]).setPending .none) s t ∧ t.pending = .none ∧
    t.sp = s.sp - 3 ∧ t.flag .i = true ∧ t.pc = w16 ((s1.busRead vec).peek (vec + 1)) (s1.peek vec) ∧
    t.cycles = s.cycles + 7

/-- R528. -/
def Obligations.InterruptEntryConditions : Prop :=
  ∀ s : State,
    (s.entersInterrupt = true ↔
      s.pending = .nmi ∨ (s.pending = .irq ∧ (s.cfg.irqMaskPoint = .delivery → s.flag .i = false))) ∧
    (s.entersInterrupt = false → s.takePending = s) ∧
    ∀ t, (s.halted = true ∨ 0 < s.stall) → step s = .next t → t.pending = s.pending ∧ t.pc = s.pc ∧ t.sp = s.sp

/-- R521, R522, R524. -/
def Obligations.RequestsAndAcknowledge : Prop :=
  ∀ s : State,
    s.hostCall .signalIrq = (s.setEvents []).setPending
      (if s.pending = .nmi ∨ (s.cfg.irqMaskPoint = .request ∧ s.flag .i = true) then s.pending else .irq) ∧
    s.hostCall .signalNmi = (s.setEvents []).setPending .nmi ∧
    s.hostCall .cancelIrq = (s.setEvents []).setPending (if s.pending = .irq then .none else s.pending)

/-- R157. -/
def Obligations.StepReturnsTheCyclesConsumed : Prop :=
  ∀ s t : State, step s = .next t →
    (s.halted = true → t.returned = 0 ∧ t.cycles = s.cycles) ∧
    (s.halted = false → 0 < s.stall → t.returned = 1 ∧ t.cycles = s.cycles) ∧
    (s.halted = false → s.stall = 0 →
      let s1 := s.begin.takePending
      let s2 := s1.busRead s1.pc
      let s3 := s2.busRead (s1.pc + 1)
      let i := decodeBytes (s1.peek s1.pc) (s2.peek (s1.pc + 1)) (s3.peek (s1.pc + 2))
      let crossed := (resolve i.operand s1.fetched).crossed
      ∃ branch : Nat, branch ≤ 2 ∧ (i.operand.mode ≠ .rel → branch = 0) ∧
        t.returned = t.cycles - s.cycles ∧
        t.returned = BitVec.ofNat 64 ((if s.entersInterrupt = true then 7 else 0) +
          stepCycles i s.cfg.pagePenaltyMode crossed + branch))

/-- R141 to R153 (R146 for the zero-page,Y mode; R15 for the operand `M` and the read that gets it). -/
def Obligations.EffectiveAddresses : Prop :=
  ∀ (s : State) (b : Byte) (w : Word),
    let noIndex := fun (o : Operand) => (resolve o s).crossed = false ∧ (resolve o s).base = (resolve o s).ea
    let reads := fun (o : Operand) (n : Nat) (ps : List Word) =>
      operandByteReads o = n ∧ pointerReads o s = ps
    let pair := fun (l h : Word) => w16 ((s.busRead l).peek h) (s.peek l)
    ((resolve .imp s).ea = 0 ∧ noIndex .imp ∧ reads .imp 0 []) ∧
    ((resolve .acc s).ea = 0 ∧ noIndex .acc ∧ reads .acc 0 []) ∧
    ((resolve (.imm b) s).ea = s.pc + 1 ∧ noIndex (.imm b) ∧ reads (.imm b) 0 []) ∧
    ((resolve (.zp b) s).ea.toNat = b.toNat ∧ noIndex (.zp b) ∧ reads (.zp b) 1 []) ∧
    ((resolve (.zpx b) s).ea.toNat = (b.toNat + s.x.toNat) % 256 ∧ noIndex (.zpx b) ∧ reads (.zpx b) 1 []) ∧
    ((resolve (.zpy b) s).ea.toNat = (b.toNat + s.y.toNat) % 256 ∧ noIndex (.zpy b) ∧ reads (.zpy b) 1 []) ∧
    ((resolve (.abs w) s).ea = w ∧ noIndex (.abs w) ∧ reads (.abs w) 2 []) ∧
    ((resolve (.abx w) s).ea.toNat = (w.toNat + s.x.toNat) % 65536 ∧ (resolve (.abx w) s).base = w ∧
      ((resolve (.abx w) s).crossed = true ↔ (resolve (.abx w) s).ea.toNat / 256 ≠ w.toNat / 256) ∧
      reads (.abx w) 2 []) ∧
    ((resolve (.aby w) s).ea.toNat = (w.toNat + s.y.toNat) % 65536 ∧ (resolve (.aby w) s).base = w ∧
      ((resolve (.aby w) s).crossed = true ↔ (resolve (.aby w) s).ea.toNat / 256 ≠ w.toNat / 256) ∧
      reads (.aby w) 2 []) ∧
    (∃ h : Word, h.toNat = w.toNat / 256 * 256 + (w.toNat + 1) % 256 ∧
      (resolve (.ind w) s).ea = pair w h ∧ noIndex (.ind w) ∧ reads (.ind w) 2 [w, h]) ∧
    (∃ l h : Word, l.toNat = (b.toNat + s.x.toNat) % 256 ∧ h.toNat = (b.toNat + s.x.toNat + 1) % 256 ∧
      (resolve (.izx b) s).ea = pair l h ∧ noIndex (.izx b) ∧ reads (.izx b) 1 [l, h]) ∧
    (∃ l h base : Word, l.toNat = b.toNat ∧ h.toNat = (b.toNat + 1) % 256 ∧ base = pair l h ∧
      (resolve (.izy b) s).base = base ∧ (resolve (.izy b) s).ea.toNat = (base.toNat + s.y.toNat) % 65536 ∧
      ((resolve (.izy b) s).crossed = true ↔ (resolve (.izy b) s).ea.toNat / 256 ≠ base.toNat / 256) ∧
      reads (.izy b) 1 [l, h]) ∧
    (((resolve (.rel b) s).ea.toNat : Int) = (s.pc.toNat + 2 + b.toInt) % 65536 ∧ noIndex (.rel b) ∧
      reads (.rel b) 1 []) ∧
    (∀ o, s.afterPointer o = s.busReads (pointerReads o s)) ∧
    ∀ r : Resolved,
      (operandValue (.imm b) r s = b ∧ afterOperand (.imm b) r s = s.access (.read r.ea b)) ∧
      (operandValue .acc r s = s.a ∧ afterOperand .acc r s = s) ∧
      ∀ o : Operand, o.mode ∈ [Mode.zp, .zpx, .zpy, .abs, .abx, .aby, .izx, .izy] →
        operandValue o r s = s.peek r.ea ∧ afterOperand o r s = s.busRead r.ea

/-- R155 (R137 for when the cycle is charged). -/
def Obligations.PageCrossingPenalty : Prop :=
  ∀ op b1 b2 : Byte,
    let i := decodeBytes op b1 b2
    let penalized : List Byte :=
      [0x11, 0x19, 0x1C, 0x1D, 0x31, 0x39, 0x3C, 0x3D, 0x51, 0x59, 0x5C, 0x5D,
       0x71, 0x79, 0x7C, 0x7D, 0xB1, 0xB3, 0xB9, 0xBB, 0xBC, 0xBD, 0xBE, 0xBF,
       0xD1, 0xD9, 0xDC, 0xDD, 0xF1, 0xF9, 0xFC, 0xFD]
    stepCycles i .perOpcode false = i.baseCycles ∧ stepCycles i .uniform false = i.baseCycles ∧
    stepCycles i .perOpcode true = i.baseCycles + (if op ∈ penalized then 1 else 0) ∧
    stepCycles i .uniform true = i.baseCycles + (if i.operand.mode ∈ [Mode.abx, .aby, .izy] then 1 else 0)

/-- R200, R201, R202, R348 (R338 for the memory forms of LAX). -/
def Obligations.LoadInstructions : Prop :=
  Opcodes .lda [(0xA1, .izx, 6, false), (0xA5, .zp, 3, false), (0xA9, .imm, 2, false), (0xAD, .abs, 4, false),
        (0xB1, .izy, 5, true), (0xB5, .zpx, 4, false), (0xB9, .aby, 4, true), (0xBD, .abx, 4, true)] ∧
  Opcodes .ldx [(0xA2, .imm, 2, false), (0xA6, .zp, 3, false), (0xAE, .abs, 4, false), (0xB6, .zpy, 4, false),
        (0xBE, .aby, 4, true)] ∧
  Opcodes .ldy [(0xA0, .imm, 2, false), (0xA4, .zp, 3, false), (0xAC, .abs, 4, false), (0xB4, .zpx, 4, false),
        (0xBC, .abx, 4, true)] ∧
  Opcodes .lax [(0xA3, .izx, 6, false), (0xA7, .zp, 3, false), (0xAF, .abs, 4, false), (0xB3, .izy, 5, true),
        (0xB7, .zpy, 4, false), (0xBF, .aby, 4, true)] ∧
  (∀ (o : Operand) (s : State),
    let r := resolve o s
    let s1 := s.afterPointer o
    let m := operandValue o r s1
    let u := afterOperand o r s1
    (∃ t, exec (.lda o) s = .next t ∧ t.a = m ∧ NZOf m t ∧ Advanced (.lda o) s t ∧
      RegisterEffect [.a] [.n, .z] u s t) ∧
    (∃ t, exec (.ldx o) s = .next t ∧ t.x = m ∧ NZOf m t ∧ Advanced (.ldx o) s t ∧
      RegisterEffect [.x] [.n, .z] u s t) ∧
    (∃ t, exec (.ldy o) s = .next t ∧ t.y = m ∧ NZOf m t ∧ Advanced (.ldy o) s t ∧
      RegisterEffect [.y] [.n, .z] u s t) ∧
    (o.mode ≠ .imm → ∃ t, exec (.lax o) s = .next t ∧ t.a = m ∧ t.x = m ∧ NZOf m t ∧ Advanced (.lax o) s t ∧
      RegisterEffect [.a, .x] [.n, .z] u s t)) ∧
  Opcodes (fun o => match o with | .aby w => .las w | _ => .nop) [(0xBB, .aby, 4, true)] ∧
  ∀ (w : Word) (s : State),
    let a := w + s.y.zeroExtend 16
    let v := s.peek a &&& s.sp
    ∃ t, exec (.las w) s = .next t ∧ t.a = v ∧ t.x = v ∧ t.sp = v ∧ NZOf v t ∧ Advanced (.las w) s t ∧
      RegisterEffect [.a, .x, .sp] [.n, .z] (s.busRead a) s t

/-- R203, R204, R205, R337. -/
def Obligations.StoreInstructions : Prop :=
  Opcodes .sta [(0x81, .izx, 6, false), (0x85, .zp, 3, false), (0x8D, .abs, 4, false), (0x91, .izy, 6, false),
        (0x95, .zpx, 4, false), (0x99, .aby, 5, false), (0x9D, .abx, 5, false)] ∧
  Opcodes .stx [(0x86, .zp, 3, false), (0x8E, .abs, 4, false), (0x96, .zpy, 4, false)] ∧
  Opcodes .sty [(0x84, .zp, 3, false), (0x8C, .abs, 4, false), (0x94, .zpx, 4, false)] ∧
  Opcodes .sax [(0x83, .izx, 6, false), (0x87, .zp, 3, false), (0x8F, .abs, 4, false), (0x97, .zpy, 4, false)] ∧
  ∀ (o : Operand) (s : State),
    let a := (resolve o s).ea
    let s1 := s.afterPointer o
    (∃ t, exec (.sta o) s = .next t ∧ Advanced (.sta o) s t ∧ StoreEffect [] [] [(a, s.a)] (s1.busWrite a s.a) s t) ∧
    (∃ t, exec (.stx o) s = .next t ∧ Advanced (.stx o) s t ∧ StoreEffect [] [] [(a, s.x)] (s1.busWrite a s.x) s t) ∧
    (∃ t, exec (.sty o) s = .next t ∧ Advanced (.sty o) s t ∧ StoreEffect [] [] [(a, s.y)] (s1.busWrite a s.y) s t) ∧
    ∃ t, exec (.sax o) s = .next t ∧ Advanced (.sax o) s t ∧
      StoreEffect [] [] [(a, s.a &&& s.x)] (s1.busWrite a (s.a &&& s.x)) s t

/-- R206 to R211. -/
def Obligations.TransferInstructions : Prop :=
  Opcodes (fun _ => .tax) [(0xAA, .imp, 2, false)] ∧
  Opcodes (fun _ => .tay) [(0xA8, .imp, 2, false)] ∧
  Opcodes (fun _ => .txa) [(0x8A, .imp, 2, false)] ∧
  Opcodes (fun _ => .tya) [(0x98, .imp, 2, false)] ∧
  Opcodes (fun _ => .tsx) [(0xBA, .imp, 2, false)] ∧
  Opcodes (fun _ => .txs) [(0x9A, .imp, 2, false)] ∧
  ∀ s : State,
    (∃ t, exec .tax s = .next t ∧ t.x = s.a ∧ NZOf (s.a) t ∧ Advanced .tax s t ∧
      RegisterEffect [.x] [.n, .z] s s t) ∧
    (∃ t, exec .tay s = .next t ∧ t.y = s.a ∧ NZOf (s.a) t ∧ Advanced .tay s t ∧
      RegisterEffect [.y] [.n, .z] s s t) ∧
    (∃ t, exec .txa s = .next t ∧ t.a = s.x ∧ NZOf (s.x) t ∧ Advanced .txa s t ∧
      RegisterEffect [.a] [.n, .z] s s t) ∧
    (∃ t, exec .tya s = .next t ∧ t.a = s.y ∧ NZOf (s.y) t ∧ Advanced .tya s t ∧
      RegisterEffect [.a] [.n, .z] s s t) ∧
    (∃ t, exec .tsx s = .next t ∧ t.x = s.sp ∧ NZOf (s.sp) t ∧ Advanced .tsx s t ∧
      RegisterEffect [.x] [.n, .z] s s t) ∧
    ∃ t, exec .txs s = .next t ∧ t.sp = s.x ∧ Advanced .txs s t ∧ RegisterEffect [.sp] [] s s t

/-- R172, R173, R230. -/
def Obligations.AddWithCarry : Prop :=
  Opcodes .adc [(0x61, .izx, 6, false), (0x65, .zp, 3, false), (0x69, .imm, 2, false), (0x6D, .abs, 4, false),
        (0x71, .izy, 5, true), (0x75, .zpx, 4, false), (0x79, .aby, 4, true), (0x7D, .abx, 4, true)] ∧
  ∀ (o : Operand) (s : State),
    let r := resolve o s
    let s1 := s.afterPointer o
    let m := operandValue o r s1
    let u := afterOperand o r s1
    let sum := s.a.toNat + m.toNat + (s.flag .c).toNat
    let signed := s.a.toInt + m.toInt + (s.flag .c).toNat
    ∃ t, exec (.adc o) s = .next t ∧ t.a.toNat = sum % 256 ∧ (t.flag .c = true ↔ 255 < sum) ∧
      (t.flag .v = true ↔ signed < -128 ∨ 127 < signed) ∧
      (t.flag .v = true ↔ s.a.getLsbD 7 = m.getLsbD 7 ∧ t.a.getLsbD 7 ≠ s.a.getLsbD 7) ∧ NZOf t.a t ∧
      Advanced (.adc o) s t ∧ RegisterEffect [.a] [.n, .v, .z, .c] u s t

/-- R174, R175, R231, R349. -/
def Obligations.SubtractWithBorrow : Prop :=
  Opcodes .sbc [(0xE1, .izx, 6, false), (0xE5, .zp, 3, false), (0xE9, .imm, 2, false), (0xED, .abs, 4, false),
        (0xF1, .izy, 5, true), (0xF5, .zpx, 4, false), (0xF9, .aby, 4, true), (0xFD, .abx, 4, true)] ∧
  Opcodes (fun o => match o with | .imm b => .sbcDup b | _ => .nop) [(0xEB, .imm, 2, false)] ∧
  (∀ (a m : Byte) (c : Bool), aluSub a m c = aluAdd a (~~~m) c) ∧
  (∀ (o : Operand) (s : State),
    let r := resolve o s
    let s1 := s.afterPointer o
    let m := operandValue o r s1
    let u := afterOperand o r s1
    let diff : Int := s.a.toNat - m.toNat - (1 - (s.flag .c).toNat)
    let signed : Int := s.a.toInt - m.toInt - (1 - (s.flag .c).toNat)
    ∃ t, exec (.sbc o) s = .next t ∧ (t.a.toNat : Int) = diff % 256 ∧ (t.flag .c = true ↔ 0 ≤ diff) ∧
      (t.flag .v = true ↔ signed < -128 ∨ 127 < signed) ∧
      (t.flag .v = true ↔ s.a.getLsbD 7 ≠ m.getLsbD 7 ∧ t.a.getLsbD 7 ≠ s.a.getLsbD 7) ∧ NZOf t.a t ∧
      Advanced (.sbc o) s t ∧ RegisterEffect [.a] [.n, .v, .z, .c] u s t) ∧
  ∀ (b : Byte) (s : State), ∃ t, exec (.sbcDup b) s = .next t ∧ exec (.sbc (.imm b)) s = .next t

/-- R176. -/
def Obligations.DecimalFlagChangesNoArithmetic : Prop :=
  ∀ (o : Operand) (s : State) (d : Bool), ∀ i ∈ [Instr.adc o, Instr.sbc o],
    ∃ t u, exec i s = .next t ∧ exec i (s.setFlag .d d) = .next u ∧ u.a = t.a ∧ u.cycles = t.cycles ∧
      u.flag .c = t.flag .c ∧ u.flag .v = t.flag .v ∧ u.flag .n = t.flag .n ∧ u.flag .z = t.flag .z

/-- R177, R232, R233, R234. -/
def Obligations.LogicalInstructions : Prop :=
  Opcodes .and [(0x21, .izx, 6, false), (0x25, .zp, 3, false), (0x29, .imm, 2, false), (0x2D, .abs, 4, false),
        (0x31, .izy, 5, true), (0x35, .zpx, 4, false), (0x39, .aby, 4, true), (0x3D, .abx, 4, true)] ∧
  Opcodes .ora [(0x01, .izx, 6, false), (0x05, .zp, 3, false), (0x09, .imm, 2, false), (0x0D, .abs, 4, false),
        (0x11, .izy, 5, true), (0x15, .zpx, 4, false), (0x19, .aby, 4, true), (0x1D, .abx, 4, true)] ∧
  Opcodes .eor [(0x41, .izx, 6, false), (0x45, .zp, 3, false), (0x49, .imm, 2, false), (0x4D, .abs, 4, false),
        (0x51, .izy, 5, true), (0x55, .zpx, 4, false), (0x59, .aby, 4, true), (0x5D, .abx, 4, true)] ∧
  ∀ (o : Operand) (s : State),
    let r := resolve o s
    let s1 := s.afterPointer o
    let m := operandValue o r s1
    let u := afterOperand o r s1
    (∃ t, exec (.and o) s = .next t ∧ t.a = (s.a &&& m) ∧ NZOf (s.a &&& m) t ∧ Advanced (.and o) s t ∧
      RegisterEffect [.a] [.n, .z] u s t) ∧
    (∃ t, exec (.ora o) s = .next t ∧ t.a = (s.a ||| m) ∧ NZOf (s.a ||| m) t ∧ Advanced (.ora o) s t ∧
      RegisterEffect [.a] [.n, .z] u s t) ∧
    (∃ t, exec (.eor o) s = .next t ∧ t.a = (s.a ^^^ m) ∧ NZOf (s.a ^^^ m) t ∧ Advanced (.eor o) s t ∧
      RegisterEffect [.a] [.n, .z] u s t)

/-- R182, R184, R235 to R238. -/
def Obligations.CompareAndBitTest : Prop :=
  Opcodes .cmp [(0xC1, .izx, 6, false), (0xC5, .zp, 3, false), (0xC9, .imm, 2, false), (0xCD, .abs, 4, false),
        (0xD1, .izy, 5, true), (0xD5, .zpx, 4, false), (0xD9, .aby, 4, true), (0xDD, .abx, 4, true)] ∧
  Opcodes .cpx [(0xE0, .imm, 2, false), (0xE4, .zp, 3, false), (0xEC, .abs, 4, false)] ∧
  Opcodes .cpy [(0xC0, .imm, 2, false), (0xC4, .zp, 3, false), (0xCC, .abs, 4, false)] ∧
  Opcodes .bit [(0x24, .zp, 3, false), (0x2C, .abs, 4, false)] ∧
  ∀ (o : Operand) (s : State),
    let r := resolve o s
    let s1 := s.afterPointer o
    let m := operandValue o r s1
    let u := afterOperand o r s1
    (∃ t, exec (.cmp o) s = .next t ∧ (t.flag .c = true ↔ m.toNat ≤ (s.a).toNat) ∧ (t.flag .z = true ↔ s.a = m) ∧
      t.flag .n = (s.a - m).getLsbD 7 ∧ Advanced (.cmp o) s t ∧
      RegisterEffect [] [.n, .z, .c] u s t) ∧
    (∃ t, exec (.cpx o) s = .next t ∧ (t.flag .c = true ↔ m.toNat ≤ (s.x).toNat) ∧ (t.flag .z = true ↔ s.x = m) ∧
      t.flag .n = (s.x - m).getLsbD 7 ∧ Advanced (.cpx o) s t ∧
      RegisterEffect [] [.n, .z, .c] u s t) ∧
    (∃ t, exec (.cpy o) s = .next t ∧ (t.flag .c = true ↔ m.toNat ≤ (s.y).toNat) ∧ (t.flag .z = true ↔ s.y = m) ∧
      t.flag .n = (s.y - m).getLsbD 7 ∧ Advanced (.cpy o) s t ∧
      RegisterEffect [] [.n, .z, .c] u s t) ∧
    ∃ t, exec (.bit o) s = .next t ∧ (t.flag .z = true ↔ s.a &&& m = 0) ∧ t.flag .v = m.getLsbD 6 ∧
      t.flag .n = m.getLsbD 7 ∧ Advanced (.bit o) s t ∧
      RegisterEffect [] [.n, .v, .z] u s t

/-- R183, R239, R240. -/
def Obligations.IncrementAndDecrementMemory : Prop :=
  Opcodes .inc [(0xE6, .zp, 5, false), (0xEE, .abs, 6, false), (0xF6, .zpx, 6, false), (0xFE, .abx, 7, false)] ∧
  Opcodes .dec [(0xC6, .zp, 5, false), (0xCE, .abs, 6, false), (0xD6, .zpx, 6, false), (0xDE, .abx, 7, false)] ∧
  ∀ (o : Operand) (s : State),
    let r := resolve o s
    let s1 := s.afterPointer o
    let m := operandValue o r s1
    let u := afterOperand o r s1
    (∃ v : Byte, v.toNat = (m.toNat + 1) % 256 ∧ ∃ t, exec (.inc o) s = .next t ∧ NZOf v t ∧ Advanced (.inc o) s t ∧
      StoreEffect [] [.n, .z] [(r.ea, v)] (u.busWrite r.ea v) s t) ∧
    ∃ v : Byte, v.toNat = (m.toNat + 255) % 256 ∧ ∃ t, exec (.dec o) s = .next t ∧ NZOf v t ∧ Advanced (.dec o) s t ∧
      StoreEffect [] [.n, .z] [(r.ea, v)] (u.busWrite r.ea v) s t

/-- R241 to R244. -/
def Obligations.IncrementAndDecrementRegisters : Prop :=
  Opcodes (fun _ => .inx) [(0xE8, .imp, 2, false)] ∧
  Opcodes (fun _ => .iny) [(0xC8, .imp, 2, false)] ∧
  Opcodes (fun _ => .dex) [(0xCA, .imp, 2, false)] ∧
  Opcodes (fun _ => .dey) [(0x88, .imp, 2, false)] ∧
  ∀ s : State,
    (∃ t, exec .inx s = .next t ∧ t.x.toNat = (s.x.toNat + 1) % 256 ∧ NZOf t.x t ∧ Advanced .inx s t ∧
      RegisterEffect [.x] [.n, .z] s s t) ∧
    (∃ t, exec .iny s = .next t ∧ t.y.toNat = (s.y.toNat + 1) % 256 ∧ NZOf t.y t ∧ Advanced .iny s t ∧
      RegisterEffect [.y] [.n, .z] s s t) ∧
    (∃ t, exec .dex s = .next t ∧ t.x.toNat = (s.x.toNat + 255) % 256 ∧ NZOf t.x t ∧ Advanced .dex s t ∧
      RegisterEffect [.x] [.n, .z] s s t) ∧
    (∃ t, exec .dey s = .next t ∧ t.y.toNat = (s.y.toNat + 255) % 256 ∧ NZOf t.y t ∧ Advanced .dey s t ∧
      RegisterEffect [.y] [.n, .z] s s t)

/-- R178 to R181, R245 to R248. -/
def Obligations.ShiftsAndRotates : Prop :=
  Opcodes .asl [(0x06, .zp, 5, false), (0x0A, .acc, 2, false), (0x0E, .abs, 6, false), (0x16, .zpx, 6, false),
        (0x1E, .abx, 7, false)] ∧
  Opcodes .lsr [(0x46, .zp, 5, false), (0x4A, .acc, 2, false), (0x4E, .abs, 6, false), (0x56, .zpx, 6, false),
        (0x5E, .abx, 7, false)] ∧
  Opcodes .rol [(0x26, .zp, 5, false), (0x2A, .acc, 2, false), (0x2E, .abs, 6, false), (0x36, .zpx, 6, false),
        (0x3E, .abx, 7, false)] ∧
  Opcodes .ror [(0x66, .zp, 5, false), (0x6A, .acc, 2, false), (0x6E, .abs, 6, false), (0x76, .zpx, 6, false),
        (0x7E, .abx, 7, false)] ∧
  (∀ s : State,
    (∃ t, exec (.asl .acc) s = .next t ∧ t.a = (s.a <<< 1) ∧ NZOf t.a t ∧ t.flag .c = s.a.getLsbD 7 ∧
      Advanced (.asl .acc) s t ∧ RegisterEffect [.a] [.n, .z, .c] s s t) ∧
    (∃ t, exec (.lsr .acc) s = .next t ∧ t.a = (s.a >>> 1) ∧ NZOf t.a t ∧ t.flag .c = s.a.getLsbD 0 ∧
      Advanced (.lsr .acc) s t ∧ RegisterEffect [.a] [.n, .z, .c] s s t) ∧
    (∃ t, exec (.rol .acc) s = .next t ∧ t.a = ((s.a <<< 1) ||| (if s.flag .c = true then 1 else 0)) ∧
      NZOf t.a t ∧ t.flag .c = s.a.getLsbD 7 ∧
      Advanced (.rol .acc) s t ∧ RegisterEffect [.a] [.n, .z, .c] s s t) ∧
    (∃ t, exec (.ror .acc) s = .next t ∧ t.a = ((s.a >>> 1) ||| (if s.flag .c = true then 0x80 else 0)) ∧
      NZOf t.a t ∧ t.flag .c = s.a.getLsbD 0 ∧
      Advanced (.ror .acc) s t ∧ RegisterEffect [.a] [.n, .z, .c] s s t)) ∧
  ∀ (o : Operand) (s : State), o ≠ .acc →
    let r := resolve o s
    let s1 := s.afterPointer o
    let m := operandValue o r s1
    let u := afterOperand o r s1
    (∃ v t, v = (m <<< 1) ∧ exec (.asl o) s = .next t ∧ NZOf v t ∧ t.flag .c = m.getLsbD 7 ∧
      Advanced (.asl o) s t ∧ StoreEffect [] [.n, .z, .c] [(r.ea, v)] (u.busWrite r.ea v) s t) ∧
    (∃ v t, v = (m >>> 1) ∧ exec (.lsr o) s = .next t ∧ NZOf v t ∧ t.flag .c = m.getLsbD 0 ∧
      Advanced (.lsr o) s t ∧ StoreEffect [] [.n, .z, .c] [(r.ea, v)] (u.busWrite r.ea v) s t) ∧
    (∃ v t, v = ((m <<< 1) ||| (if s.flag .c = true then 1 else 0)) ∧ exec (.rol o) s = .next t ∧
      NZOf v t ∧ t.flag .c = m.getLsbD 7 ∧
      Advanced (.rol o) s t ∧ StoreEffect [] [.n, .z, .c] [(r.ea, v)] (u.busWrite r.ea v) s t) ∧
    (∃ v t, v = ((m >>> 1) ||| (if s.flag .c = true then 0x80 else 0)) ∧ exec (.ror o) s = .next t ∧
      NZOf v t ∧ t.flag .c = m.getLsbD 0 ∧
      Advanced (.ror o) s t ∧ StoreEffect [] [.n, .z, .c] [(r.ea, v)] (u.busWrite r.ea v) s t)

/-- R156, R270 to R278. -/
def Obligations.ConditionalBranches : Prop :=
  Opcodes (fun o => match o with | .rel d => .bpl d | _ => .nop) [(0x10, .rel, 2, false)] ∧
  Opcodes (fun o => match o with | .rel d => .bmi d | _ => .nop) [(0x30, .rel, 2, false)] ∧
  Opcodes (fun o => match o with | .rel d => .bvc d | _ => .nop) [(0x50, .rel, 2, false)] ∧
  Opcodes (fun o => match o with | .rel d => .bvs d | _ => .nop) [(0x70, .rel, 2, false)] ∧
  Opcodes (fun o => match o with | .rel d => .bcc d | _ => .nop) [(0x90, .rel, 2, false)] ∧
  Opcodes (fun o => match o with | .rel d => .bcs d | _ => .nop) [(0xB0, .rel, 2, false)] ∧
  Opcodes (fun o => match o with | .rel d => .bne d | _ => .nop) [(0xD0, .rel, 2, false)] ∧
  Opcodes (fun o => match o with | .rel d => .beq d | _ => .nop) [(0xF0, .rel, 2, false)] ∧
  ∀ (d : Byte) (s : State),
    ∀ q ∈ [
      (Instr.bpl d, Flag.n, false),
      (Instr.bmi d, Flag.n, true),
      (Instr.bvc d, Flag.v, false),
      (Instr.bvs d, Flag.v, true),
      (Instr.bcc d, Flag.c, false),
      (Instr.bcs d, Flag.c, true),
      (Instr.bne d, Flag.z, false),
      (Instr.beq d, Flag.z, true)],
    let next := s.pc + 2
    let target := next + d.signExtend 16
    let reference := match s.cfg.branchPageRef with
      | .nextPc => next
      | .opcodePc => s.pc
    ∃ t, exec q.1 s = .next t ∧ RegisterEffect [] [] s s t ∧
      (s.flag q.2.1 = q.2.2 → t.pc = target ∧
        t.cycles = s.cycles + (if target.toNat / 256 = reference.toNat / 256 then 3 else 4)) ∧
      (s.flag q.2.1 ≠ q.2.2 → t.pc = next ∧ t.cycles = s.cycles + 2)

/-- R279, R280. -/
def Obligations.Jumps : Prop :=
  Opcodes .jmp [(0x4C, .abs, 3, false), (0x6C, .ind, 5, false)] ∧
  ∀ (w : Word) (s : State),
    (∃ t, exec (.jmp (.abs w)) s = .next t ∧ t.pc = w ∧ t.cycles = s.cycles + 3 ∧
      RegisterEffect [] [] s s t) ∧
    ∃ h : Word, h.toNat = w.toNat / 256 * 256 + (w.toNat + 1) % 256 ∧
      ∃ t, exec (.jmp (.ind w)) s = .next t ∧ t.pc = w16 ((s.busRead w).peek h) (s.peek w) ∧
        t.cycles = s.cycles + 5 ∧ RegisterEffect [] [] (s.busReads [w, h]) s t

/-- R281, R282. -/
def Obligations.SubroutineCallAndReturn : Prop :=
  Opcodes (fun o => match o with | .abs w => .jsr w | _ => .nop) [(0x20, .abs, 6, false)] ∧
  Opcodes (fun _ => .rts) [(0x60, .imp, 6, false)] ∧
  (∀ (w : Word) (s : State),
    ∃ t, exec (.jsr w) s = .next t ∧ t.pc = w ∧ t.sp = s.sp - 2 ∧ t.cycles = s.cycles + 6 ∧
      let stores := [(stackAddr s.sp, hi (s.pc + 2)), (stackAddr (s.sp - 1), lo (s.pc + 2))]
      StoreEffect [.sp] [] stores (s.busWrites stores) s t) ∧
  ∀ s : State,
    let l := stackAddr (s.sp + 1)
    let h := stackAddr (s.sp + 2)
    ∃ t, exec .rts s = .next t ∧ t.pc = w16 ((s.busRead l).peek h) (s.peek l) + 1 ∧ t.sp = s.sp + 2 ∧
      t.cycles = s.cycles + 6 ∧ RegisterEffect [.sp] [] (s.busReads [l, h]) s t

/-- R283. -/
def Obligations.BreakInstruction : Prop :=
  Opcodes (fun _ => .brk) [(0x00, .imp, 7, false)] ∧
  ∀ s : State,
    let v := s.cfg.vecIrq
    let stores :=
      [(stackAddr s.sp, hi (s.pc + 2)), (stackAddr (s.sp - 1), lo (s.pc + 2)), (stackAddr (s.sp - 2), s.p ||| 0x30)]
    let s1 := (s.busWrites stores).setFlag .i true
    ∃ t, exec .brk s = .next t ∧ t.sp = s.sp - 3 ∧ t.flag .i = true ∧
      t.pc = w16 ((s1.busRead v).peek (v + 1)) (s1.peek v) ∧ t.cycles = s.cycles + 7 ∧
      StoreEffect [.sp] [.i] stores (s1.busReads [v, v + 1]) s t

/-- R284. -/
def Obligations.ReturnFromInterrupt : Prop :=
  Opcodes (fun _ => .rti) [(0x40, .imp, 6, false)] ∧
  ∀ s : State,
    let f := stackAddr (s.sp + 1)
    let l := stackAddr (s.sp + 2)
    let h := stackAddr (s.sp + 3)
    let p := (s.peek f &&& 0xEF) ||| 0x20
    let s1 := (s.busRead f).setP p
    ∃ t, exec .rti s = .next t ∧ t.p = p ∧ t.pc = w16 ((s1.busRead l).peek h) (s1.peek l) ∧ t.sp = s.sp + 3 ∧
      t.cycles = s.cycles + 6 ∧ RegisterEffect [.sp] [.c, .z, .i, .d, .b, .u, .v, .n] (s1.busReads [l, h]) s t

/-- R281, R282, R283, R284, R525, R533. -/
def Obligations.ReturnUndoesEntry : Prop :=
  ∀ (s : State) (w : Word) (j k l : Nat), s.route (stackAddr s.sp) = .ram j → s.route (stackAddr (s.sp - 1)) = .ram k →
    s.route (stackAddr (s.sp - 2)) = .ram l → j ≠ k → j ≠ l → k ≠ l →
    (∃ t u, exec (.jsr w) s = .next t ∧ exec .rts t = .next u ∧ u.pc = s.pc + 3 ∧ u.sp = s.sp) ∧
    (∃ t u, exec .brk s = .next t ∧ exec .rti t = .next u ∧ u.pc = s.pc + 2 ∧ u.sp = s.sp ∧
      u.p = (s.p &&& 0xEF) ||| 0x20) ∧
    (s.entersInterrupt = true → ∃ u, exec .rti s.takePending = .next u ∧ u.pc = s.pc ∧ u.sp = s.sp ∧
      u.p = (s.p &&& 0xEF) ||| 0x20)

/-- R300 to R303 (R10 for the two bytes of a word, R34 for the slot that S designates). -/
def Obligations.StackInstructions : Prop :=
  Opcodes (fun _ => .pha) [(0x48, .imp, 3, false)] ∧ Opcodes (fun _ => .php) [(0x08, .imp, 3, false)] ∧
  Opcodes (fun _ => .pla) [(0x68, .imp, 4, false)] ∧ Opcodes (fun _ => .plp) [(0x28, .imp, 4, false)] ∧
  (∀ b : Byte, (stackAddr b).toNat = 0x100 + b.toNat) ∧
  (∀ w : Word, (hi w).toNat = w.toNat / 256 ∧ (lo w).toNat = w.toNat % 256) ∧
  (∀ h l : Byte, (w16 h l).toNat = h.toNat * 256 + l.toNat) ∧
  ∀ s : State,
    (∃ t, exec .pha s = .next t ∧ t.sp = s.sp - 1 ∧ Advanced .pha s t ∧
      StoreEffect [.sp] [] [(stackAddr s.sp, s.a)] (s.busWrite (stackAddr s.sp) s.a) s t) ∧
    (∃ t, exec .php s = .next t ∧ t.sp = s.sp - 1 ∧ Advanced .php s t ∧
      StoreEffect [.sp] [] [(stackAddr s.sp, s.p ||| 0x30)] (s.busWrite (stackAddr s.sp) (s.p ||| 0x30)) s t) ∧
    let a := stackAddr (s.sp + 1)
    (∃ t, exec .pla s = .next t ∧ t.a = s.peek a ∧ t.sp = s.sp + 1 ∧ NZOf (s.peek a) t ∧ Advanced .pla s t ∧
      RegisterEffect [.a, .sp] [.n, .z] (s.busRead a) s t) ∧
    ∃ t, exec .plp s = .next t ∧ t.p = (s.peek a &&& 0xEF) ||| 0x20 ∧ t.sp = s.sp + 1 ∧ Advanced .plp s t ∧
      RegisterEffect [.sp] [.c, .z, .i, .d, .b, .u, .v, .n] (s.busRead a) s t

/-- R304 to R310 (R36 for the places of the flags in P). -/
def Obligations.FlagInstructions : Prop :=
  Opcodes (fun _ => .clc) [(0x18, .imp, 2, false)] ∧
  Opcodes (fun _ => .sec) [(0x38, .imp, 2, false)] ∧
  Opcodes (fun _ => .cli) [(0x58, .imp, 2, false)] ∧
  Opcodes (fun _ => .sei) [(0x78, .imp, 2, false)] ∧
  Opcodes (fun _ => .clv) [(0xB8, .imp, 2, false)] ∧
  Opcodes (fun _ => .cld) [(0xD8, .imp, 2, false)] ∧
  Opcodes (fun _ => .sed) [(0xF8, .imp, 2, false)] ∧
  (∀ s : State, [Flag.c, .z, .i, .d, .b, .u, .v, .n].map s.flag = (List.range 8).map s.p.getLsbD) ∧
  ∀ s : State, ∀ q ∈ [
      (Instr.clc, Flag.c, false),
      (Instr.sec, Flag.c, true),
      (Instr.cli, Flag.i, false),
      (Instr.sei, Flag.i, true),
      (Instr.clv, Flag.v, false),
      (Instr.cld, Flag.d, false),
      (Instr.sed, Flag.d, true)],
    ∃ t, exec q.1 s = .next t ∧ t.flag q.2.1 = q.2.2 ∧ Advanced q.1 s t ∧ RegisterEffect [] [q.2.1] s s t

/-- R311, R350, R351, R352. -/
def Obligations.NoOperations : Prop :=
  Opcodes (fun _ => .nop) [(0xEA, .imp, 2, false)] ∧
  (∀ b1 b2 : Byte,
    [0x1A, 0x3A, 0x5A, 0x7A, 0xDA, 0xFA].map (fun op => decodeBytes op b1 b2) = (List.finRange 6).map .nopImp ∧
    [0x80, 0x82, 0x89, 0xC2, 0xE2].map (fun op => decodeBytes op b1 b2) = (List.finRange 5).map (.nopImm · b1) ∧
    [0x04, 0x44, 0x64].map (fun op => decodeBytes op b1 b2) = (List.finRange 3).map (.nopZp · b1) ∧
    [0x14, 0x34, 0x54, 0x74, 0xD4, 0xF4].map (fun op => decodeBytes op b1 b2) = (List.finRange 6).map (.nopZpx · b1) ∧
    decodeBytes 0x0C b1 b2 = .nopAbs (w16 b2 b1) ∧
    [0x1C, 0x3C, 0x5C, 0x7C, 0xDC, 0xFC].map (fun op => decodeBytes op b1 b2) =
      (List.finRange 6).map (.nopAbx · (w16 b2 b1))) ∧
  ∀ (s : State) (r3 : Fin 3) (r5 : Fin 5) (r6 : Fin 6) (b : Byte) (w : Word),
    ∀ q ∈ [(Instr.nop, 2), (.nopImp r6, 2), (.nopImm r5 b, 2), (.nopZp r3 b, 3), (.nopZpx r6 b, 4), (.nopAbs w, 4),
      (.nopAbx r6 w, 4)],
    q.1.baseCycles = q.2 ∧ ∃ t, exec q.1 s = .next t ∧ Advanced q.1 s t ∧ RegisterEffect [] [] s s t

/-- R331, R332, R333 (R159, R330 for the composition). -/
def Obligations.ShiftThenLogicCompositions : Prop :=
  Opcodes .slo [(0x03, .izx, 8, false), (0x07, .zp, 5, false), (0x0F, .abs, 6, false), (0x13, .izy, 8, false),
        (0x17, .zpx, 6, false), (0x1B, .aby, 7, false), (0x1F, .abx, 7, false)] ∧
  Opcodes .rla [(0x23, .izx, 8, false), (0x27, .zp, 5, false), (0x2F, .abs, 6, false), (0x33, .izy, 8, false),
        (0x37, .zpx, 6, false), (0x3B, .aby, 7, false), (0x3F, .abx, 7, false)] ∧
  Opcodes .sre [(0x43, .izx, 8, false), (0x47, .zp, 5, false), (0x4F, .abs, 6, false), (0x53, .izy, 8, false),
        (0x57, .zpx, 6, false), (0x5B, .aby, 7, false), (0x5F, .abx, 7, false)] ∧
  ∀ (o : Operand) (s : State), (Instr.slo o).wellFormed = true →
    let r := resolve o s
    let s1 := s.afterPointer o
    let m := s1.peek r.ea
    let written := fun v : Byte => (s1.busRead r.ea).busWrite r.ea v
    (∃ v n t, v = (m <<< 1) ∧ n = (written v).peek r.ea ∧ exec (.slo o) s = .next t ∧ t.a = (s.a ||| n) ∧
      NZOf t.a t ∧ t.flag .c = m.getLsbD 7 ∧ Advanced (.slo o) s t ∧
      StoreEffect [.a] [.n, .z, .c] [(r.ea, v)] ((written v).busRead r.ea) s t) ∧
    (∃ v n t, v = ((m <<< 1) ||| (if s.flag .c = true then 1 else 0)) ∧ n = (written v).peek r.ea ∧
      exec (.rla o) s = .next t ∧ t.a = (s.a &&& n) ∧
      NZOf t.a t ∧ t.flag .c = m.getLsbD 7 ∧ Advanced (.rla o) s t ∧
      StoreEffect [.a] [.n, .z, .c] [(r.ea, v)] ((written v).busRead r.ea) s t) ∧
    (∃ v n t, v = (m >>> 1) ∧ n = (written v).peek r.ea ∧ exec (.sre o) s = .next t ∧ t.a = (s.a ^^^ n) ∧
      NZOf t.a t ∧ t.flag .c = m.getLsbD 0 ∧ Advanced (.sre o) s t ∧
      StoreEffect [.a] [.n, .z, .c] [(r.ea, v)] ((written v).busRead r.ea) s t)

/-- R334, R335, R336 (R159, R330 for the composition). -/
def Obligations.ArithmeticCompositions : Prop :=
  Opcodes .rra [(0x63, .izx, 8, false), (0x67, .zp, 5, false), (0x6F, .abs, 6, false), (0x73, .izy, 8, false),
        (0x77, .zpx, 6, false), (0x7B, .aby, 7, false), (0x7F, .abx, 7, false)] ∧
  Opcodes .dcp [(0xC3, .izx, 8, false), (0xC7, .zp, 5, false), (0xCF, .abs, 6, false), (0xD3, .izy, 8, false),
        (0xD7, .zpx, 6, false), (0xDB, .aby, 7, false), (0xDF, .abx, 7, false)] ∧
  Opcodes .isc [(0xE3, .izx, 8, false), (0xE7, .zp, 5, false), (0xEF, .abs, 6, false), (0xF3, .izy, 8, false),
        (0xF7, .zpx, 6, false), (0xFB, .aby, 7, false), (0xFF, .abx, 7, false)] ∧
  ∀ (o : Operand) (s : State), (Instr.rra o).wellFormed = true →
    let r := resolve o s
    let s1 := s.afterPointer o
    let m := s1.peek r.ea
    let written := fun v : Byte => (s1.busRead r.ea).busWrite r.ea v
    (∃ v t, v = ((m >>> 1) ||| (if s.flag .c = true then 0x80 else 0)) ∧ exec (.rra o) s = .next t ∧
      let n := (written v).peek r.ea
      let sum := s.a.toNat + n.toNat + (m.getLsbD 0).toNat
      let signed := s.a.toInt + n.toInt + (m.getLsbD 0).toNat
      t.a.toNat = sum % 256 ∧ (t.flag .c = true ↔ 255 < sum) ∧ (t.flag .v = true ↔ signed < -128 ∨ 127 < signed) ∧
      NZOf t.a t ∧ Advanced (.rra o) s t ∧
      StoreEffect [.a] [.n, .v, .z, .c] [(r.ea, v)] ((written v).busRead r.ea) s t) ∧
    (∃ t, exec (.dcp o) s = .next t ∧
      let n := (written (m - 1)).peek r.ea
      (t.flag .c = true ↔ n.toNat ≤ s.a.toNat) ∧ (t.flag .z = true ↔ s.a = n) ∧ t.flag .n = (s.a - n).getLsbD 7 ∧
      Advanced (.dcp o) s t ∧
      StoreEffect [] [.n, .z, .c] [(r.ea, m - 1)] ((written (m - 1)).busRead r.ea) s t) ∧
    ∃ t, exec (.isc o) s = .next t ∧
      let n := (written (m + 1)).peek r.ea
      let diff : Int := s.a.toNat - n.toNat - (1 - (s.flag .c).toNat)
      let signed : Int := s.a.toInt - n.toInt - (1 - (s.flag .c).toNat)
      (t.a.toNat : Int) = diff % 256 ∧ (t.flag .c = true ↔ 0 ≤ diff) ∧
      (t.flag .v = true ↔ signed < -128 ∨ 127 < signed) ∧ NZOf t.a t ∧ Advanced (.isc o) s t ∧
      StoreEffect [.a] [.n, .v, .z, .c] [(r.ea, m + 1)] ((written (m + 1)).busRead r.ea) s t

/-- R339 to R342. -/
def Obligations.ImmediateCombinations : Prop :=
  (∀ b1 b2 : Byte, decodeBytes 0x0B b1 b2 = .anc 0 b1 ∧ decodeBytes 0x2B b1 b2 = .anc 1 b1) ∧
  Opcodes (fun o => match o with | .imm b => .alr b | _ => .nop) [(0x4B, .imm, 2, false)] ∧
  Opcodes (fun o => match o with | .imm b => .arr b | _ => .nop) [(0x6B, .imm, 2, false)] ∧
  Opcodes (fun o => match o with | .imm b => .axs b | _ => .nop) [(0xCB, .imm, 2, false)] ∧
  ∀ (b : Byte) (s : State),
    let u := s.access (.read (s.pc + 1) b)
    let spent := fun t : State => t.pc = s.pc + 2 ∧ t.cycles = s.cycles + 2
    (∀ row, ∃ t, exec (.anc row b) s = .next t ∧ t.a = s.a &&& b ∧ NZOf (s.a &&& b) t ∧
      t.flag .c = (s.a &&& b).getLsbD 7 ∧ spent t ∧ RegisterEffect [.a] [.n, .z, .c] u s t) ∧
    (∃ t, exec (.alr b) s = .next t ∧ t.a = (s.a &&& b) >>> 1 ∧ NZOf ((s.a &&& b) >>> 1) t ∧ t.flag .n = false ∧
      t.flag .c = (s.a &&& b).getLsbD 0 ∧ spent t ∧ RegisterEffect [.a] [.n, .z, .c] u s t) ∧
    (∃ t, exec (.arr b) s = .next t ∧ t.a = ((s.a &&& b) >>> 1) ||| (if s.flag .c = true then 0x80 else 0) ∧
      NZOf t.a t ∧ t.flag .c = t.a.getLsbD 6 ∧ t.flag .v = (t.a.getLsbD 6 ^^ t.a.getLsbD 5) ∧ spent t ∧
      RegisterEffect [.a] [.n, .v, .z, .c] u s t) ∧
    ∃ t, exec (.axs b) s = .next t ∧ t.x = (s.a &&& s.x) - b ∧ (t.flag .c = true ↔ b.toNat ≤ (s.a &&& s.x).toNat) ∧
      (t.flag .z = true ↔ s.a &&& s.x = b) ∧ t.flag .n = t.x.getLsbD 7 ∧ spent t ∧
      RegisterEffect [.x] [.n, .z, .c] u s t

/-- The fixed meanings of R338 (immediate) and R343 to R347, which are a choice (notes 7): the spec allows any value. -/
def Obligations.UnstableOpcodes : Prop :=
  Opcodes (fun o => match o with | .imm b => .xaa b | _ => .nop) [(0x8B, .imm, 2, false)] ∧
  Opcodes .lax [(0xAB, .imm, 2, false)] ∧
  Opcodes .ahx [(0x93, .izy, 6, false), (0x9F, .aby, 5, false)] ∧
  Opcodes (fun o => match o with | .aby w => .shx w | _ => .nop) [(0x9E, .aby, 5, false)] ∧
  Opcodes (fun o => match o with | .abx w => .shy w | _ => .nop) [(0x9C, .abx, 5, false)] ∧
  Opcodes (fun o => match o with | .aby w => .tas w | _ => .nop) [(0x9B, .aby, 5, false)] ∧
  (∀ (b : Byte) (s : State),
    let u := s.access (.read (s.pc + 1) b)
    let spent := fun t : State => t.pc = s.pc + 2 ∧ t.cycles = s.cycles + 2
    (∃ t, exec (.xaa b) s = .next t ∧ t.a = s.x &&& b ∧ NZOf (s.x &&& b) t ∧ spent t ∧
      RegisterEffect [.a] [.n, .z] u s t) ∧
    ∃ t, exec (.lax (.imm b)) s = .next t ∧ t.a = b ∧ t.x = b ∧ NZOf b t ∧ spent t ∧
      RegisterEffect [.a, .x] [.n, .z] u s t) ∧
  (∀ (o : Operand) (s : State),
    let r := resolve o s
    let v := s.a &&& s.x &&& (hi r.base + 1)
    ∃ t, exec (.ahx o) s = .next t ∧ Advanced (.ahx o) s t ∧
      StoreEffect [] [] [(r.ea, v)] ((s.afterPointer o).busWrite r.ea v) s t) ∧
  ∀ (w : Word) (s : State),
    let h := hi w + 1
    let byX := w + s.x.zeroExtend 16
    let byY := w + s.y.zeroExtend 16
    (∃ t, exec (.shx w) s = .next t ∧ Advanced (.shx w) s t ∧
      StoreEffect [] [] [(byY, s.x &&& h)] (s.busWrite byY (s.x &&& h)) s t) ∧
    (∃ t, exec (.shy w) s = .next t ∧ Advanced (.shy w) s t ∧
      StoreEffect [] [] [(byX, s.y &&& h)] (s.busWrite byX (s.y &&& h)) s t) ∧
    ∃ t, exec (.tas w) s = .next t ∧ t.sp = s.a &&& s.x ∧ Advanced (.tas w) s t ∧
      StoreEffect [.sp] [] [(byY, s.a &&& s.x &&& h)] (s.busWrite byY (s.a &&& s.x &&& h)) s t

/-- R110, R353; that only KIL raises the lock-up is R530. -/
def Obligations.KilLocksUpAndNothingElseDoes : Prop :=
  (∀ b1 b2 : Byte,
    [0x02, 0x12, 0x22, 0x32, 0x42, 0x52, 0x62, 0x72, 0x92, 0xB2, 0xD2, 0xF2].map (fun op => decodeBytes op b1 b2) =
      (List.finRange 12).map .kil) ∧
  (∀ (row : Fin 12) (s : State), ∃ t, exec (.kil row) s = .next t ∧ t.halted = true ∧ t.pc = s.pc + 1 ∧
    t.cycles = s.cycles + 2 ∧ RegsKept [] s t ∧ FlagsKept [] s t ∧ StorageKept s t ∧ OutsideAs s t ∧
    t.returned = s.returned ∧
    step t = .next ((t.setEvents []).setReturned 0)) ∧
  ∀ (i : Instr) (s t : State), exec i s = .next t → t.halted ≠ s.halted → ∃ row, i = .kil row

/-- R85, R572. -/
def Obligations.StoreIsSeenByTheNextRead : Prop :=
  ∀ (s : State) (o q : Operand) (k : Nat), (Instr.sta o).wellFormed = true → q.mode ≠ .imm →
    s.route (resolve o s).ea = .ram k →
    ∃ t, exec (.sta o) s = .next t ∧ ((resolve q t).ea = (resolve o s).ea →
      ((Instr.lda q).wellFormed = true → ∃ u, exec (.lda q) t = .next u ∧ u.a = s.a) ∧
      ((Instr.ldx q).wellFormed = true → ∃ u, exec (.ldx q) t = .next u ∧ u.x = s.a) ∧
      ((Instr.ldy q).wellFormed = true → ∃ u, exec (.ldy q) t = .next u ∧ u.y = s.a))

/-- R411 to R415 (R389 for `CHR_WRITABLE`). -/
def Obligations.MapperAddressDecode : Prop :=
  Config.default.chrWritable = .whenSynthesized ∧
  ∀ (cfg : Config) (c : Cartridge) (a : Word) (v : Byte),
    let d := (c.write cfg a v).1
    let writable := match cfg.chrWritable with
      | .whenSynthesized => c.chrIsRam
      | .always => true
      | .never => false
    (0x2000 ≤ a.toNat → a.toNat < 0x6000 → c.read a = BitVec.ofNat 8 (a.toNat / 256) ∧ c.write cfg a v = (c, [])) ∧
    (0x6000 ≤ a.toNat → a.toNat < 0x8000 →
      c.read a = c.saveRam.read (a.toNat - 0x6000) ∧ d.dirty = true ∧ (c.write cfg a v).2 = [] ∧
      (∀ b, d.read b = if b = a then v else c.read b) ∧ { d with saveRam := c.saveRam, dirty := c.dirty } = c) ∧
    (a.toNat < 0x2000 → c.read a = c.chr.read (c.chrOffset a.toNat) ∧ (c.write cfg a v).2 = [] ∧
      (writable = false → d = c) ∧
      (writable = true → d.read a = v ∧ { d with chr := c.chr } = c ∧
        ∀ k, d.chr.read k = if k = c.chrOffset a.toNat then v else c.chr.read k)) ∧
    (0x8000 ≤ a.toNat → c.read a = c.prg.read (c.prgOffset a.toNat) ∧ d.chr = c.chr ∧ d.saveRam = c.saveRam ∧
      d.dirty = c.dirty) ∧
    d.prg = c.prg

/-- R416, R417. -/
def Obligations.BankTranslation : Prop :=
  (∀ (b : Int) (n : Nat), 0 < n → bankIndex b n < n ∧ ∃ q : Int, b = q * n + bankIndex b n) ∧
  (∀ n : Nat, 0 < n → bankIndex (-1) n = n - 1) ∧ (∀ n : Nat, 1 < n → bankIndex (-2) n = n - 2) ∧
  (∀ (b : Int) (len k d : Nat), windowOffset b len k d = bankIndex b (len / k) * k + d) ∧
  ∀ (cfg : Config) (c : Cartridge) (a : Nat), c.Inv cfg →
    0 < c.prgLen / c.board.prgWindow ∧ 0 < c.chrLen / c.board.chrWindow ∧
    (0x8000 ≤ a → c.prgOffset a < c.prgLen) ∧ (a < 0x2000 → c.chrOffset a < c.chrLen)

/-- R451, R452, R453, R463, R464 (R462 for the mode bits of control). -/
def Obligations.NromAndMmc1Windows : Prop :=
  (∀ (cfg : Config) (c : Cartridge) (a : Nat) (w : Word) (v : Byte), c.board = .nrom →
    (c.prgLen % 16384 = 0 → 0 < c.prgLen → 0x8000 ≤ a → a < 0x10000 →
      c.prgOffset a = (if a < 0xC000 then 0 else 1) % (c.prgLen / 16384) * 16384 + a % 16384) ∧
    (a < 0x2000 → c.chrOffset a = a) ∧
    (c.cycleIrq = none → c.nybble = none → 0x8000 ≤ w.toNat → c.write cfg w v = (c, []))) ∧
  ∀ (c : Cartridge) (m : Mmc1) (a : Nat), c.board = .mmc1 m →
    (c.prgLen % 16384 = 0 → 0 < c.prgLen →
      let n := c.prgLen / 16384
      let p := m.prgReg.toNat % 16
      let at' := fun bank : Nat => bank % n * 16384 + a % 16384
      (0x8000 ≤ a → a < 0xC000 → c.prgOffset a = at' (match m.control.toNat / 4 % 4 with
        | 2 => 0
        | 3 => p
        | _ => p / 2 * 2)) ∧
      (0xC000 ≤ a → a < 0x10000 → c.prgOffset a = at' (match m.control.toNat / 4 % 4 with
        | 2 => p
        | 3 => n - 1
        | _ => p / 2 * 2 + 1))) ∧
    (let k := m.chr0.toNat / 2 * 2
     let at' := fun bank : Nat => bank % (c.chrLen / 4096) * 4096 + a % 4096
     (a < 0x1000 → c.chrOffset a = at' (if m.control.getLsbD 4 = true then m.chr0.toNat else k)) ∧
     (0x1000 ≤ a → a < 0x2000 → c.chrOffset a = at' (if m.control.getLsbD 4 = true then m.chr1.toNat else k + 1)))

/-- R461, R462, R466. -/
def Obligations.Mmc1SerialWrites : Prop :=
  (∀ (m : Mmc1) (v : BitVec 5) (a : Vector Word 5) (b : Vector Byte 5), m.shift = 0 → m.count = 0 →
    (∀ i : Fin 5, b[i].getLsbD 7 = false ∧ b[i].getLsbD 0 = v.getLsbD i) →
    let four := (((m.write a[0] b[0]).write a[1] b[1]).write a[2] b[2]).write a[3] b[3]
    let m5 := four.write a[4] b[4]
    { four with shift := 0, count := 0 } = m ∧ four.count = 4 ∧
    (a[4].toNat / 0x2000 % 4 = 0 → m5 = { m with control := v }) ∧
    (a[4].toNat / 0x2000 % 4 = 1 → m5 = { m with chr0 := v }) ∧
    (a[4].toNat / 0x2000 % 4 = 2 → m5 = { m with chr1 := v }) ∧
    (a[4].toNat / 0x2000 % 4 = 3 → m5 = { m with prgReg := v })) ∧
  (∀ (m : Mmc1) (a : Word) (v : Byte), v.getLsbD 7 = true →
    let w := m.write a v
    w.shift = 0 ∧ w.count = 0 ∧ w.control = m.control ||| 0x0C ∧ w.control.toNat / 4 % 4 = 3 ∧ w.chr0 = m.chr0 ∧
    w.chr1 = m.chr1 ∧ w.prgReg = m.prgReg ∧ w.prgBank 0 = (m.prgReg &&& 0x0F).toNat ∧ w.prgBank 1 = -1 ∧
    (m.prgReg = 0 → ∀ slot, w.prgBank slot = Mmc1.powerOn.prgBank slot)) ∧
  ∀ (cfg : Config) (c : Cartridge) (m : Mmc1) (a : Word) (v : Byte), c.board = .mmc1 m → 0x8000 ≤ a.toNat →
    let d := (c.write cfg a v).1
    let completes := v.getLsbD 7 = false ∧ m.count = 4 ∧ a.toNat / 0x2000 % 4 = 0
    d.board = .mmc1 (m.write a v) ∧ d.initialMirroring = c.initialMirroring ∧
    (¬ completes → d.mirroring = c.mirroring) ∧
    (completes → d.mirroring = match (m.write a v).control.toNat % 4 with
      | 0 => .singleScreen0
      | 1 => .singleScreen1
      | 2 => .vertical
      | _ => .horizontal)

/-- R484, R485 (R482 for the mode bits of bankSelect). -/
def Obligations.Mmc3Windows : Prop :=
  ∀ (c : Cartridge) (m : Mmc3) (a : Nat), c.board = .mmc3 m →
    (c.prgLen % 16384 = 0 → 0 < c.prgLen →
      let n := c.prgLen / 8192
      let r6 := m.bank[6].toNat % 64
      let r7 := m.bank[7].toNat % 64
      let at' := fun bank : Nat => bank % n * 8192 + a % 8192
      (0x8000 ≤ a → a < 0xA000 → c.prgOffset a = at' (if m.bankSelect.getLsbD 6 = true then n - 2 else r6)) ∧
      (0xA000 ≤ a → a < 0xC000 → c.prgOffset a = at' r7) ∧
      (0xC000 ≤ a → a < 0xE000 → c.prgOffset a = at' (if m.bankSelect.getLsbD 6 = true then r6 else n - 2)) ∧
      (0xE000 ≤ a → a < 0x10000 → c.prgOffset a = at' (n - 1))) ∧
    (a < 0x2000 →
      let pairs := [m.bank[0].toNat / 2 * 2, m.bank[0].toNat / 2 * 2 + 1, m.bank[1].toNat / 2 * 2, m.bank[1].toNat / 2 * 2 + 1]
      let singles := [m.bank[2].toNat, m.bank[3].toNat, m.bank[4].toNat, m.bank[5].toNat]
      let banks := if m.bankSelect.getLsbD 7 = true then singles ++ pairs else pairs ++ singles
      c.chrOffset a = banks.getD (a / 1024) 0 % (c.chrLen / 1024) * 1024 + a % 1024)

/-- R481, R486, R487, R488 (R482, R483 for the bank registers). -/
def Obligations.Mmc3RegisterWrites : Prop :=
  ∀ (cfg : Config) (c : Cartridge) (m : Mmc3) (a : Word) (v : Byte), c.board = .mmc3 m → c.cycleIrq = none →
    0x8000 ≤ a.toNat →
    let w := c.write cfg a v
    let sel := a &&& 0xE001
    let same := fun (n : Mmc3) => w.1.board = .mmc3 n ∧ w.1.mirroring = c.mirroring
    (sel = 0x8000 → same { m with bankSelect := v }) ∧
    (sel = 0x8001 → ∀ k : Fin 8, k.val = m.bankSelect.toNat % 8 → same { m with bank := m.bank.set k v }) ∧
    (sel = 0xA000 → w.1.board = .mmc3 m ∧ w.1.mirroring =
      (if c.initialMirroring = .fourScreen then c.mirroring else if v.getLsbD 0 = true then .horizontal else .vertical)) ∧
    (sel = 0xA001 → same m) ∧
    (sel = 0xC000 → same { m with irqLatch := v }) ∧
    (sel = 0xC001 → same { m with irqCounter := 0, irqReload := true }) ∧
    (sel = 0xE000 → same { m with irqEnable := false }) ∧
    (sel = 0xE001 → same { m with irqEnable := true }) ∧
    (.irqAck ∈ w.2 ↔ sel = 0xE000) ∧ .irq ∉ w.2

/-- R487, R490, R491: the property the source states ("exactly one interrupt-request signal per four qualifying scanline
steps"). -/
def Obligations.ScanlineInterruptPeriod : Prop :=
  ∀ (mode : Mmc3IrqMode) (m : Mmc3) (k : Nat), m.irqReload = true →
    let period := match mode with
      | .source => max m.irqLatch.toNat 1
      | .hardware => m.irqLatch.toNat + 1
    ((m.afterClocks mode k).clock mode).2 = if m.irqEnable = true ∧ period ∣ k + 1 then [.irq] else []

/-- R489 (R424 for the request; R423 for the boards without a scanline counter). That a call with no cartridge has no effect is
the model's choice (notes 11). -/
def Obligations.VideoStepQualification : Prop :=
  ∀ (s : State) (sl cy : Int) (bg sp : Bool),
    let t := s.hostCall (.stepVideo sl cy bg sp)
    let qualifies := cy = s.cfg.mmc3IrqCycle ∧ 0 ≤ sl ∧ sl ≤ 239 ∧ (bg = true ∨ sp = true)
    (¬ qualifies → t = s.setEvents []) ∧
    (s.cart = none → t = s.setEvents []) ∧
    ∀ c, s.cart = some c →
      ((∀ m, c.board ≠ .mmc3 m) → t = s.setEvents []) ∧
      ∀ m, c.board = .mmc3 m → qualifies →
        t.cart = some { c with board := .mmc3 (m.clock s.cfg.mmc3IrqMode).1 } ∧
        t.events = (m.clock s.cfg.mmc3IrqMode).2 ∧
        (t.events = [] → t.pending = s.pending) ∧ (t.events = [.irq] → t.pending = s.signalIrq.pending)

/-- R426, R428 (R424 for the request). -/
def Obligations.CycleInterruptPeriodAndNybbles : Prop :=
  (∀ (divide : Nat) (g : CycleIrq) (v : Byte) (k : Nat), 0 < divide → v.getLsbD 0 = true →
    let g1 := (g.operate .setControl v).1
    ((g1.afterTicks divide k).tick divide).2 = if divide * (g.latch.toNat + 1) ∣ k + 1 then [.irq] else []) ∧
  (∀ (divide : Nat) (g : CycleIrq) (k : Nat), g.enabled = false → ((g.afterTicks divide k).tick divide).2 = []) ∧
  (∀ (g : CycleIrq) (v : Byte),
    g.operate .setLatch v = ({ g with latch := v }, []) ∧
    g.operate .setControl v = ({ g with enabled := v.getLsbD 0, prescaler := 0, counter := g.latch }, [.irqAck]) ∧
    g.operate .acknowledge v = (g, [.irqAck])) ∧
  (∀ (s : State) (c : Cartridge) (n : Nat), s.cart = some c →
    let t := s.hostCall (.tickCpu n)
    let d := s.cfg.cycleIrqDivide
    (c.cycleIrq = none → t = s.setEvents []) ∧
    ∀ g, c.cycleIrq = some g →
      t.cart = some { c with cycleIrq := some (g.afterTicks d n) } ∧
      t.events = (List.range n).flatMap (fun k => ((g.afterTicks d k).tick d).2) ∧
      (.irq ∉ t.events → t.pending = s.pending) ∧ (.irq ∈ t.events → t.pending = s.signalIrq.pending)) ∧
  ∀ (r : NybbleRegs) (j : Fin 12) (l h : Byte),
    let low := r.writeLow j l
    let high := r.writeHigh j h
    low.prgSlot = r.prgSlot ∧ low.chrSlot = r.chrSlot ∧
    (∀ i : Fin 12, low.pendLo[i].toNat = if i = j then l.toNat % 16 else r.pendLo[i].toNat) ∧ high.pendLo = r.pendLo ∧
    (∀ i : Fin 4, high.prgSlot[i].toNat =
      if i.val = j.val then h.toNat % 16 * 16 + r.pendLo[j].toNat else r.prgSlot[i].toNat) ∧
    ∀ i : Fin 8, high.chrSlot[i].toNat =
      if i.val + 4 = j.val then h.toNat % 16 * 16 + r.pendLo[j].toNat else r.chrSlot[i].toNat

/-- R382, R397 (R384, R395, R396 for the two other errors). That prgCount = 0 is found before a short body is the model's choice
(notes 17). -/
def Obligations.LoadErrors : Prop :=
  ∀ (s : State) (image : List Byte),
    let hdr := fun k : Nat => image.getD k 0
    let body := (if (hdr 6).getLsbD 2 = true then 512 else 0) + 16384 * (hdr 4).toNat + 8192 * (hdr 5).toNat
    let id := match s.cfg.mapperFixTable.lookup (bitwiseCrc32 ((image.drop 16).take body)) with
      | some m => m.toNat
      | none => (hdr 7).toNat / 16 * 16 + (hdr 6).toNat / 16
    let bad := image.length < 16 ∨ image.take 4 ≠ [0x4E, 0x45, 0x53, 0x1A]
    (bad → loadImage s.cfg image = .error .format) ∧
    (¬ bad → hdr 4 = 0 → loadImage s.cfg image = .error .format) ∧
    (¬ bad → hdr 4 ≠ 0 → image.length < 16 + body → loadImage s.cfg image = .error .truncated) ∧
    (¬ bad → hdr 4 ≠ 0 → 16 + body ≤ image.length →
      (id ∉ [0, 1, 4] ∨ ∀ m ∈ s.cfg.supportedMappers, m.toNat ≠ id) →
      loadImage s.cfg image = .error .unsupportedMapper) ∧
    ∀ e, loadImage s.cfg image = .error e → s.hostCall (.load image) = s.setEvents []

/-- R383, R384, R386 to R389, R391 to R396, R398, R569: the cartridge that a good image makes, with every power-on value. -/
def Obligations.LoadBuildsTheCartridge : Prop :=
  ∀ (s : State) (image : List Byte),
    let hdr := fun k : Nat => image.getD k 0
    let start := 16 + (if (hdr 6).getLsbD 2 = true then 512 else 0)
    let prg := 16384 * (hdr 4).toNat
    let chr := 8192 * (hdr 5).toNat
    let crc := bitwiseCrc32 ((image.drop 16).take (start - 16 + prg + chr))
    let id := match s.cfg.mapperFixTable.lookup crc with
      | some m => m.toNat
      | none => (hdr 7).toNat / 16 * 16 + (hdr 6).toNat / 16
    16 ≤ image.length → image.take 4 = [0x4E, 0x45, 0x53, 0x1A] → hdr 4 ≠ 0 → start + prg + chr ≤ image.length →
    id ∈ [0, 1, 4] → (∃ m ∈ s.cfg.supportedMappers, m.toNat = id) →
    ∃ c, loadImage s.cfg image = .ok c ∧ s.hostCall (.load image) = (s.setEvents []).setCart (some c) ∧
      c.prgLen = prg ∧ (∀ k, k < prg → c.prg.read k = image.getD (start + k) 0) ∧
      c.chrLen = (if hdr 5 = 0 then 8192 else chr) ∧ c.chrIsRam = decide (hdr 5 = 0) ∧
      (∀ k, k < c.chrLen → c.chr.read k = if hdr 5 = 0 then 0 else image.getD (start + prg + k) 0) ∧
      c.crc = crc ∧ c.mapperId.toNat = id ∧ c.battery = (hdr 6).getLsbD 1 ∧ c.initialMirroring = c.mirroring ∧
      c.mirroring = (if (hdr 6).getLsbD 3 = true then .fourScreen
        else if (hdr 6).getLsbD 0 = true then .vertical else .horizontal) ∧
      (∀ k, c.saveRam.read k = 0) ∧ c.dirty = false ∧ c.cycleIrq = none ∧ c.nybble = none ∧
      (id = 0 → c.board = .nrom) ∧
      (id = 1 → c.board = .mmc1 { shift := 0, count := 0, control := 0x0C, chr0 := 0, chr1 := 0, prgReg := 0 }) ∧
      (id = 4 → c.board = .mmc3
        { bankSelect := 0, bank := s.cfg.mmc3PowerOnR, irqLatch := 0, irqCounter := 0, irqReload := false,
          irqEnable := false }) ∧
      c.Inv s.cfg

/-- R55, R398, R429, R523, R576. -/
def Obligations.HostCallsLeaveTheProcessor : Prop :=
  ∀ (s : State) (call : HostCall), call ≠ .reset →
    let t := s.hostCall call
    RegsKept [] s t ∧ t.pc = s.pc ∧ t.p = s.p ∧ t.cycles = s.cycles ∧ t.ram = s.ram ∧ t.cfg = s.cfg ∧
    t.returned = s.returned ∧ t.halted = s.halted ∧ ((∀ n, call ≠ .addStall n) → t.stall = s.stall) ∧
    (∀ n, call = .addStall n → t = (s.setEvents []).setStall (s.stall + n)) ∧
    (match call with
      | .reset | .signalNmi | .signalIrq | .cancelIrq | .addStall _ | .devices _ => t.cart = s.cart
      | .stepVideo .. | .tickCpu _ | .mapperWrite .. | .load _ | .restoreSaveRam _ | .clearDirty => True) ∧
    (∀ rs, call = .devices rs → t = (s.setEvents []).setReplies rs) ∧
    ((∀ rs, call ≠ .devices rs) → t.replies = s.replies) ∧
    (s.pending = .nmi → t.pending = .nmi)

/-- R57, R72, R75, R83, R413, R538: the two bus functions and what answers them. Open bus without a reply and the default bus are
notes 1, the order of calls notes 9. -/
def Obligations.BusAccessesAndDeviceReactions : Prop :=
  ∀ (s : State) (a : Word) (v : Byte),
    let called := fun (q : Pending × Nat) (call : DeviceCall) => match call with
      | .signalNmi => (Pending.nmi, q.2)
      | .signalIrq =>
        (if q.1 = .nmi ∨ (s.cfg.irqMaskPoint = .request ∧ s.flag .i = true) then q.1 else .irq, q.2)
      | .cancelIrq => (if q.1 = .irq then .none else q.1, q.2)
      | .addStall n => (q.1, q.2 + n)
    let reacts := fun (k : Pending) (t : State) =>
      RegsKept [] s t ∧ t.p = s.p ∧ t.pc = s.pc ∧ t.cycles = s.cycles ∧ ControlKept s t ∧
      (s.replies = [] → t.pending = k ∧ t.stall = s.stall ∧ t.replies = []) ∧
      ∀ r rs, s.replies = r :: rs → t.replies = rs ∧ (t.pending, t.stall) = r.calls.foldl called (k, s.stall)
    let mapperEvents := match s.route a with
      | .mapper c => (c.write s.cfg a v).2
      | _ => []
    reacts s.pending (s.busRead a) ∧ StorageKept s (s.busRead a) ∧
    (s.busRead a).events = s.events ++ [.read a (s.peek a)] ∧
    (∀ k, s.route a = .ram k → s.peek a = s.ram.read k) ∧
    (∀ c, s.route a = .mapper c → s.cart = some c ∧ s.peek a = c.read a ∧
      (0x8000 ≤ a.toNat → s.peek a = c.prg.read (c.prgOffset a.toNat)) ∧
      (0x6000 ≤ a.toNat → a.toNat < 0x8000 → s.peek a = c.saveRam.read (a.toNat - 0x6000))) ∧
    (s.cfg.bus = defaultBus →
      (s.cart = none → s.route a = .ram a.toNat) ∧
      ∀ c, s.cart = some c → s.route a = if 0x6000 ≤ a.toNat then .mapper c else .ram a.toNat) ∧
    (s.route a = .unclaimed → s.peek a = BitVec.ofNat 8 (a.toNat / 256)) ∧
    (s.route a = .device → s.peek a = match s.replies with
      | [] => BitVec.ofNat 8 (a.toNat / 256)
      | r :: _ => r.value) ∧
    reacts (if .irqAck ∈ mapperEvents ∧ s.pending = .irq then .none else s.pending) (s.busWrite a v) ∧
    Stored a v s (s.busWrite a v) ∧ (s.busWrite a v).events = s.events ++ .write a v :: mapperEvents
end

