-- ==== Sys2Proof/Laws/State.lean ====
section
/-! SUPPORT. What each named update of the state leaves in each field: one lemma per field per update, so that no proof unfolds
a record update. -/

namespace Sys2Proof.Machine

variable (s : State)

@[simp] theorem State.setA_a (v : Byte) : (s.setA v).a = v := rfl
@[simp] theorem State.setA_x (v : Byte) : (s.setA v).x = s.x := rfl
@[simp] theorem State.setA_y (v : Byte) : (s.setA v).y = s.y := rfl
@[simp] theorem State.setA_sp (v : Byte) : (s.setA v).sp = s.sp := rfl
@[simp] theorem State.setA_pc (v : Byte) : (s.setA v).pc = s.pc := rfl
@[simp] theorem State.setA_p (v : Byte) : (s.setA v).p = s.p := rfl
@[simp] theorem State.setA_cycles (v : Byte) : (s.setA v).cycles = s.cycles := rfl
@[simp] theorem State.setA_stall (v : Byte) : (s.setA v).stall = s.stall := rfl
@[simp] theorem State.setA_pending (v : Byte) : (s.setA v).pending = s.pending := rfl
@[simp] theorem State.setA_halted (v : Byte) : (s.setA v).halted = s.halted := rfl
@[simp] theorem State.setA_ram (v : Byte) : (s.setA v).ram = s.ram := rfl
@[simp] theorem State.setA_cart (v : Byte) : (s.setA v).cart = s.cart := rfl
@[simp] theorem State.setA_cfg (v : Byte) : (s.setA v).cfg = s.cfg := rfl
@[simp] theorem State.setA_replies (v : Byte) : (s.setA v).replies = s.replies := rfl
@[simp] theorem State.setA_returned (v : Byte) : (s.setA v).returned = s.returned := rfl
@[simp] theorem State.setA_events (v : Byte) : (s.setA v).events = s.events := rfl

@[simp] theorem State.setX_a (v : Byte) : (s.setX v).a = s.a := rfl
@[simp] theorem State.setX_x (v : Byte) : (s.setX v).x = v := rfl
@[simp] theorem State.setX_y (v : Byte) : (s.setX v).y = s.y := rfl
@[simp] theorem State.setX_sp (v : Byte) : (s.setX v).sp = s.sp := rfl
@[simp] theorem State.setX_pc (v : Byte) : (s.setX v).pc = s.pc := rfl
@[simp] theorem State.setX_p (v : Byte) : (s.setX v).p = s.p := rfl
@[simp] theorem State.setX_cycles (v : Byte) : (s.setX v).cycles = s.cycles := rfl
@[simp] theorem State.setX_stall (v : Byte) : (s.setX v).stall = s.stall := rfl
@[simp] theorem State.setX_pending (v : Byte) : (s.setX v).pending = s.pending := rfl
@[simp] theorem State.setX_halted (v : Byte) : (s.setX v).halted = s.halted := rfl
@[simp] theorem State.setX_ram (v : Byte) : (s.setX v).ram = s.ram := rfl
@[simp] theorem State.setX_cart (v : Byte) : (s.setX v).cart = s.cart := rfl
@[simp] theorem State.setX_cfg (v : Byte) : (s.setX v).cfg = s.cfg := rfl
@[simp] theorem State.setX_replies (v : Byte) : (s.setX v).replies = s.replies := rfl
@[simp] theorem State.setX_returned (v : Byte) : (s.setX v).returned = s.returned := rfl
@[simp] theorem State.setX_events (v : Byte) : (s.setX v).events = s.events := rfl

@[simp] theorem State.setY_a (v : Byte) : (s.setY v).a = s.a := rfl
@[simp] theorem State.setY_x (v : Byte) : (s.setY v).x = s.x := rfl
@[simp] theorem State.setY_y (v : Byte) : (s.setY v).y = v := rfl
@[simp] theorem State.setY_sp (v : Byte) : (s.setY v).sp = s.sp := rfl
@[simp] theorem State.setY_pc (v : Byte) : (s.setY v).pc = s.pc := rfl
@[simp] theorem State.setY_p (v : Byte) : (s.setY v).p = s.p := rfl
@[simp] theorem State.setY_cycles (v : Byte) : (s.setY v).cycles = s.cycles := rfl
@[simp] theorem State.setY_stall (v : Byte) : (s.setY v).stall = s.stall := rfl
@[simp] theorem State.setY_pending (v : Byte) : (s.setY v).pending = s.pending := rfl
@[simp] theorem State.setY_halted (v : Byte) : (s.setY v).halted = s.halted := rfl
@[simp] theorem State.setY_ram (v : Byte) : (s.setY v).ram = s.ram := rfl
@[simp] theorem State.setY_cart (v : Byte) : (s.setY v).cart = s.cart := rfl
@[simp] theorem State.setY_cfg (v : Byte) : (s.setY v).cfg = s.cfg := rfl
@[simp] theorem State.setY_replies (v : Byte) : (s.setY v).replies = s.replies := rfl
@[simp] theorem State.setY_returned (v : Byte) : (s.setY v).returned = s.returned := rfl
@[simp] theorem State.setY_events (v : Byte) : (s.setY v).events = s.events := rfl

@[simp] theorem State.setSp_a (v : Byte) : (s.setSp v).a = s.a := rfl
@[simp] theorem State.setSp_x (v : Byte) : (s.setSp v).x = s.x := rfl
@[simp] theorem State.setSp_y (v : Byte) : (s.setSp v).y = s.y := rfl
@[simp] theorem State.setSp_sp (v : Byte) : (s.setSp v).sp = v := rfl
@[simp] theorem State.setSp_pc (v : Byte) : (s.setSp v).pc = s.pc := rfl
@[simp] theorem State.setSp_p (v : Byte) : (s.setSp v).p = s.p := rfl
@[simp] theorem State.setSp_cycles (v : Byte) : (s.setSp v).cycles = s.cycles := rfl
@[simp] theorem State.setSp_stall (v : Byte) : (s.setSp v).stall = s.stall := rfl
@[simp] theorem State.setSp_pending (v : Byte) : (s.setSp v).pending = s.pending := rfl
@[simp] theorem State.setSp_halted (v : Byte) : (s.setSp v).halted = s.halted := rfl
@[simp] theorem State.setSp_ram (v : Byte) : (s.setSp v).ram = s.ram := rfl
@[simp] theorem State.setSp_cart (v : Byte) : (s.setSp v).cart = s.cart := rfl
@[simp] theorem State.setSp_cfg (v : Byte) : (s.setSp v).cfg = s.cfg := rfl
@[simp] theorem State.setSp_replies (v : Byte) : (s.setSp v).replies = s.replies := rfl
@[simp] theorem State.setSp_returned (v : Byte) : (s.setSp v).returned = s.returned := rfl
@[simp] theorem State.setSp_events (v : Byte) : (s.setSp v).events = s.events := rfl

@[simp] theorem State.setPc_a (v : Word) : (s.setPc v).a = s.a := rfl
@[simp] theorem State.setPc_x (v : Word) : (s.setPc v).x = s.x := rfl
@[simp] theorem State.setPc_y (v : Word) : (s.setPc v).y = s.y := rfl
@[simp] theorem State.setPc_sp (v : Word) : (s.setPc v).sp = s.sp := rfl
@[simp] theorem State.setPc_pc (v : Word) : (s.setPc v).pc = v := rfl
@[simp] theorem State.setPc_p (v : Word) : (s.setPc v).p = s.p := rfl
@[simp] theorem State.setPc_cycles (v : Word) : (s.setPc v).cycles = s.cycles := rfl
@[simp] theorem State.setPc_stall (v : Word) : (s.setPc v).stall = s.stall := rfl
@[simp] theorem State.setPc_pending (v : Word) : (s.setPc v).pending = s.pending := rfl
@[simp] theorem State.setPc_halted (v : Word) : (s.setPc v).halted = s.halted := rfl
@[simp] theorem State.setPc_ram (v : Word) : (s.setPc v).ram = s.ram := rfl
@[simp] theorem State.setPc_cart (v : Word) : (s.setPc v).cart = s.cart := rfl
@[simp] theorem State.setPc_cfg (v : Word) : (s.setPc v).cfg = s.cfg := rfl
@[simp] theorem State.setPc_replies (v : Word) : (s.setPc v).replies = s.replies := rfl
@[simp] theorem State.setPc_returned (v : Word) : (s.setPc v).returned = s.returned := rfl
@[simp] theorem State.setPc_events (v : Word) : (s.setPc v).events = s.events := rfl

@[simp] theorem State.setP_a (v : Byte) : (s.setP v).a = s.a := rfl
@[simp] theorem State.setP_x (v : Byte) : (s.setP v).x = s.x := rfl
@[simp] theorem State.setP_y (v : Byte) : (s.setP v).y = s.y := rfl
@[simp] theorem State.setP_sp (v : Byte) : (s.setP v).sp = s.sp := rfl
@[simp] theorem State.setP_pc (v : Byte) : (s.setP v).pc = s.pc := rfl
@[simp] theorem State.setP_p (v : Byte) : (s.setP v).p = v := rfl
@[simp] theorem State.setP_cycles (v : Byte) : (s.setP v).cycles = s.cycles := rfl
@[simp] theorem State.setP_stall (v : Byte) : (s.setP v).stall = s.stall := rfl
@[simp] theorem State.setP_pending (v : Byte) : (s.setP v).pending = s.pending := rfl
@[simp] theorem State.setP_halted (v : Byte) : (s.setP v).halted = s.halted := rfl
@[simp] theorem State.setP_ram (v : Byte) : (s.setP v).ram = s.ram := rfl
@[simp] theorem State.setP_cart (v : Byte) : (s.setP v).cart = s.cart := rfl
@[simp] theorem State.setP_cfg (v : Byte) : (s.setP v).cfg = s.cfg := rfl
@[simp] theorem State.setP_replies (v : Byte) : (s.setP v).replies = s.replies := rfl
@[simp] theorem State.setP_returned (v : Byte) : (s.setP v).returned = s.returned := rfl
@[simp] theorem State.setP_events (v : Byte) : (s.setP v).events = s.events := rfl

@[simp] theorem State.setStall_a (n : Nat) : (s.setStall n).a = s.a := rfl
@[simp] theorem State.setStall_x (n : Nat) : (s.setStall n).x = s.x := rfl
@[simp] theorem State.setStall_y (n : Nat) : (s.setStall n).y = s.y := rfl
@[simp] theorem State.setStall_sp (n : Nat) : (s.setStall n).sp = s.sp := rfl
@[simp] theorem State.setStall_pc (n : Nat) : (s.setStall n).pc = s.pc := rfl
@[simp] theorem State.setStall_p (n : Nat) : (s.setStall n).p = s.p := rfl
@[simp] theorem State.setStall_cycles (n : Nat) : (s.setStall n).cycles = s.cycles := rfl
@[simp] theorem State.setStall_stall (n : Nat) : (s.setStall n).stall = n := rfl
@[simp] theorem State.setStall_pending (n : Nat) : (s.setStall n).pending = s.pending := rfl
@[simp] theorem State.setStall_halted (n : Nat) : (s.setStall n).halted = s.halted := rfl
@[simp] theorem State.setStall_ram (n : Nat) : (s.setStall n).ram = s.ram := rfl
@[simp] theorem State.setStall_cart (n : Nat) : (s.setStall n).cart = s.cart := rfl
@[simp] theorem State.setStall_cfg (n : Nat) : (s.setStall n).cfg = s.cfg := rfl
@[simp] theorem State.setStall_replies (n : Nat) : (s.setStall n).replies = s.replies := rfl
@[simp] theorem State.setStall_returned (n : Nat) : (s.setStall n).returned = s.returned := rfl
@[simp] theorem State.setStall_events (n : Nat) : (s.setStall n).events = s.events := rfl

@[simp] theorem State.setPending_a (k : Pending) : (s.setPending k).a = s.a := rfl
@[simp] theorem State.setPending_x (k : Pending) : (s.setPending k).x = s.x := rfl
@[simp] theorem State.setPending_y (k : Pending) : (s.setPending k).y = s.y := rfl
@[simp] theorem State.setPending_sp (k : Pending) : (s.setPending k).sp = s.sp := rfl
@[simp] theorem State.setPending_pc (k : Pending) : (s.setPending k).pc = s.pc := rfl
@[simp] theorem State.setPending_p (k : Pending) : (s.setPending k).p = s.p := rfl
@[simp] theorem State.setPending_cycles (k : Pending) : (s.setPending k).cycles = s.cycles := rfl
@[simp] theorem State.setPending_stall (k : Pending) : (s.setPending k).stall = s.stall := rfl
@[simp] theorem State.setPending_pending (k : Pending) : (s.setPending k).pending = k := rfl
@[simp] theorem State.setPending_halted (k : Pending) : (s.setPending k).halted = s.halted := rfl
@[simp] theorem State.setPending_ram (k : Pending) : (s.setPending k).ram = s.ram := rfl
@[simp] theorem State.setPending_cart (k : Pending) : (s.setPending k).cart = s.cart := rfl
@[simp] theorem State.setPending_cfg (k : Pending) : (s.setPending k).cfg = s.cfg := rfl
@[simp] theorem State.setPending_replies (k : Pending) : (s.setPending k).replies = s.replies := rfl
@[simp] theorem State.setPending_returned (k : Pending) : (s.setPending k).returned = s.returned := rfl
@[simp] theorem State.setPending_events (k : Pending) : (s.setPending k).events = s.events := rfl

@[simp] theorem State.setHalted_a (b : Bool) : (s.setHalted b).a = s.a := rfl
@[simp] theorem State.setHalted_x (b : Bool) : (s.setHalted b).x = s.x := rfl
@[simp] theorem State.setHalted_y (b : Bool) : (s.setHalted b).y = s.y := rfl
@[simp] theorem State.setHalted_sp (b : Bool) : (s.setHalted b).sp = s.sp := rfl
@[simp] theorem State.setHalted_pc (b : Bool) : (s.setHalted b).pc = s.pc := rfl
@[simp] theorem State.setHalted_p (b : Bool) : (s.setHalted b).p = s.p := rfl
@[simp] theorem State.setHalted_cycles (b : Bool) : (s.setHalted b).cycles = s.cycles := rfl
@[simp] theorem State.setHalted_stall (b : Bool) : (s.setHalted b).stall = s.stall := rfl
@[simp] theorem State.setHalted_pending (b : Bool) : (s.setHalted b).pending = s.pending := rfl
@[simp] theorem State.setHalted_halted (b : Bool) : (s.setHalted b).halted = b := rfl
@[simp] theorem State.setHalted_ram (b : Bool) : (s.setHalted b).ram = s.ram := rfl
@[simp] theorem State.setHalted_cart (b : Bool) : (s.setHalted b).cart = s.cart := rfl
@[simp] theorem State.setHalted_cfg (b : Bool) : (s.setHalted b).cfg = s.cfg := rfl
@[simp] theorem State.setHalted_replies (b : Bool) : (s.setHalted b).replies = s.replies := rfl
@[simp] theorem State.setHalted_returned (b : Bool) : (s.setHalted b).returned = s.returned := rfl
@[simp] theorem State.setHalted_events (b : Bool) : (s.setHalted b).events = s.events := rfl

@[simp] theorem State.setRam_a (m : Memory) : (s.setRam m).a = s.a := rfl
@[simp] theorem State.setRam_x (m : Memory) : (s.setRam m).x = s.x := rfl
@[simp] theorem State.setRam_y (m : Memory) : (s.setRam m).y = s.y := rfl
@[simp] theorem State.setRam_sp (m : Memory) : (s.setRam m).sp = s.sp := rfl
@[simp] theorem State.setRam_pc (m : Memory) : (s.setRam m).pc = s.pc := rfl
@[simp] theorem State.setRam_p (m : Memory) : (s.setRam m).p = s.p := rfl
@[simp] theorem State.setRam_cycles (m : Memory) : (s.setRam m).cycles = s.cycles := rfl
@[simp] theorem State.setRam_stall (m : Memory) : (s.setRam m).stall = s.stall := rfl
@[simp] theorem State.setRam_pending (m : Memory) : (s.setRam m).pending = s.pending := rfl
@[simp] theorem State.setRam_halted (m : Memory) : (s.setRam m).halted = s.halted := rfl
@[simp] theorem State.setRam_ram (m : Memory) : (s.setRam m).ram = m := rfl
@[simp] theorem State.setRam_cart (m : Memory) : (s.setRam m).cart = s.cart := rfl
@[simp] theorem State.setRam_cfg (m : Memory) : (s.setRam m).cfg = s.cfg := rfl
@[simp] theorem State.setRam_replies (m : Memory) : (s.setRam m).replies = s.replies := rfl
@[simp] theorem State.setRam_returned (m : Memory) : (s.setRam m).returned = s.returned := rfl
@[simp] theorem State.setRam_events (m : Memory) : (s.setRam m).events = s.events := rfl

@[simp] theorem State.setCart_a (c : Option Cartridge) : (s.setCart c).a = s.a := rfl
@[simp] theorem State.setCart_x (c : Option Cartridge) : (s.setCart c).x = s.x := rfl
@[simp] theorem State.setCart_y (c : Option Cartridge) : (s.setCart c).y = s.y := rfl
@[simp] theorem State.setCart_sp (c : Option Cartridge) : (s.setCart c).sp = s.sp := rfl
@[simp] theorem State.setCart_pc (c : Option Cartridge) : (s.setCart c).pc = s.pc := rfl
@[simp] theorem State.setCart_p (c : Option Cartridge) : (s.setCart c).p = s.p := rfl
@[simp] theorem State.setCart_cycles (c : Option Cartridge) : (s.setCart c).cycles = s.cycles := rfl
@[simp] theorem State.setCart_stall (c : Option Cartridge) : (s.setCart c).stall = s.stall := rfl
@[simp] theorem State.setCart_pending (c : Option Cartridge) : (s.setCart c).pending = s.pending := rfl
@[simp] theorem State.setCart_halted (c : Option Cartridge) : (s.setCart c).halted = s.halted := rfl
@[simp] theorem State.setCart_ram (c : Option Cartridge) : (s.setCart c).ram = s.ram := rfl
@[simp] theorem State.setCart_cart (c : Option Cartridge) : (s.setCart c).cart = c := rfl
@[simp] theorem State.setCart_cfg (c : Option Cartridge) : (s.setCart c).cfg = s.cfg := rfl
@[simp] theorem State.setCart_replies (c : Option Cartridge) : (s.setCart c).replies = s.replies := rfl
@[simp] theorem State.setCart_returned (c : Option Cartridge) : (s.setCart c).returned = s.returned := rfl
@[simp] theorem State.setCart_events (c : Option Cartridge) : (s.setCart c).events = s.events := rfl

@[simp] theorem State.setReplies_a (rs : List Reply) : (s.setReplies rs).a = s.a := rfl
@[simp] theorem State.setReplies_x (rs : List Reply) : (s.setReplies rs).x = s.x := rfl
@[simp] theorem State.setReplies_y (rs : List Reply) : (s.setReplies rs).y = s.y := rfl
@[simp] theorem State.setReplies_sp (rs : List Reply) : (s.setReplies rs).sp = s.sp := rfl
@[simp] theorem State.setReplies_pc (rs : List Reply) : (s.setReplies rs).pc = s.pc := rfl
@[simp] theorem State.setReplies_p (rs : List Reply) : (s.setReplies rs).p = s.p := rfl
@[simp] theorem State.setReplies_cycles (rs : List Reply) : (s.setReplies rs).cycles = s.cycles := rfl
@[simp] theorem State.setReplies_stall (rs : List Reply) : (s.setReplies rs).stall = s.stall := rfl
@[simp] theorem State.setReplies_pending (rs : List Reply) : (s.setReplies rs).pending = s.pending := rfl
@[simp] theorem State.setReplies_halted (rs : List Reply) : (s.setReplies rs).halted = s.halted := rfl
@[simp] theorem State.setReplies_ram (rs : List Reply) : (s.setReplies rs).ram = s.ram := rfl
@[simp] theorem State.setReplies_cart (rs : List Reply) : (s.setReplies rs).cart = s.cart := rfl
@[simp] theorem State.setReplies_cfg (rs : List Reply) : (s.setReplies rs).cfg = s.cfg := rfl
@[simp] theorem State.setReplies_replies (rs : List Reply) : (s.setReplies rs).replies = rs := rfl
@[simp] theorem State.setReplies_returned (rs : List Reply) : (s.setReplies rs).returned = s.returned := rfl
@[simp] theorem State.setReplies_events (rs : List Reply) : (s.setReplies rs).events = s.events := rfl

@[simp] theorem State.setReturned_a (n : BitVec 64) : (s.setReturned n).a = s.a := rfl
@[simp] theorem State.setReturned_x (n : BitVec 64) : (s.setReturned n).x = s.x := rfl
@[simp] theorem State.setReturned_y (n : BitVec 64) : (s.setReturned n).y = s.y := rfl
@[simp] theorem State.setReturned_sp (n : BitVec 64) : (s.setReturned n).sp = s.sp := rfl
@[simp] theorem State.setReturned_pc (n : BitVec 64) : (s.setReturned n).pc = s.pc := rfl
@[simp] theorem State.setReturned_p (n : BitVec 64) : (s.setReturned n).p = s.p := rfl
@[simp] theorem State.setReturned_cycles (n : BitVec 64) : (s.setReturned n).cycles = s.cycles := rfl
@[simp] theorem State.setReturned_stall (n : BitVec 64) : (s.setReturned n).stall = s.stall := rfl
@[simp] theorem State.setReturned_pending (n : BitVec 64) : (s.setReturned n).pending = s.pending := rfl
@[simp] theorem State.setReturned_halted (n : BitVec 64) : (s.setReturned n).halted = s.halted := rfl
@[simp] theorem State.setReturned_ram (n : BitVec 64) : (s.setReturned n).ram = s.ram := rfl
@[simp] theorem State.setReturned_cart (n : BitVec 64) : (s.setReturned n).cart = s.cart := rfl
@[simp] theorem State.setReturned_cfg (n : BitVec 64) : (s.setReturned n).cfg = s.cfg := rfl
@[simp] theorem State.setReturned_replies (n : BitVec 64) : (s.setReturned n).replies = s.replies := rfl
@[simp] theorem State.setReturned_returned (n : BitVec 64) : (s.setReturned n).returned = n := rfl
@[simp] theorem State.setReturned_events (n : BitVec 64) : (s.setReturned n).events = s.events := rfl

@[simp] theorem State.setEvents_a (es : List BusEvent) : (s.setEvents es).a = s.a := rfl
@[simp] theorem State.setEvents_x (es : List BusEvent) : (s.setEvents es).x = s.x := rfl
@[simp] theorem State.setEvents_y (es : List BusEvent) : (s.setEvents es).y = s.y := rfl
@[simp] theorem State.setEvents_sp (es : List BusEvent) : (s.setEvents es).sp = s.sp := rfl
@[simp] theorem State.setEvents_pc (es : List BusEvent) : (s.setEvents es).pc = s.pc := rfl
@[simp] theorem State.setEvents_p (es : List BusEvent) : (s.setEvents es).p = s.p := rfl
@[simp] theorem State.setEvents_cycles (es : List BusEvent) : (s.setEvents es).cycles = s.cycles := rfl
@[simp] theorem State.setEvents_stall (es : List BusEvent) : (s.setEvents es).stall = s.stall := rfl
@[simp] theorem State.setEvents_pending (es : List BusEvent) : (s.setEvents es).pending = s.pending := rfl
@[simp] theorem State.setEvents_halted (es : List BusEvent) : (s.setEvents es).halted = s.halted := rfl
@[simp] theorem State.setEvents_ram (es : List BusEvent) : (s.setEvents es).ram = s.ram := rfl
@[simp] theorem State.setEvents_cart (es : List BusEvent) : (s.setEvents es).cart = s.cart := rfl
@[simp] theorem State.setEvents_cfg (es : List BusEvent) : (s.setEvents es).cfg = s.cfg := rfl
@[simp] theorem State.setEvents_replies (es : List BusEvent) : (s.setEvents es).replies = s.replies := rfl
@[simp] theorem State.setEvents_returned (es : List BusEvent) : (s.setEvents es).returned = s.returned := rfl
@[simp] theorem State.setEvents_events (es : List BusEvent) : (s.setEvents es).events = es := rfl

@[simp] theorem State.charge_a (n : Nat) : (s.charge n).a = s.a := rfl
@[simp] theorem State.charge_x (n : Nat) : (s.charge n).x = s.x := rfl
@[simp] theorem State.charge_y (n : Nat) : (s.charge n).y = s.y := rfl
@[simp] theorem State.charge_sp (n : Nat) : (s.charge n).sp = s.sp := rfl
@[simp] theorem State.charge_pc (n : Nat) : (s.charge n).pc = s.pc := rfl
@[simp] theorem State.charge_p (n : Nat) : (s.charge n).p = s.p := rfl
@[simp] theorem State.charge_cycles (n : Nat) : (s.charge n).cycles = s.cycles + BitVec.ofNat 64 n := rfl
@[simp] theorem State.charge_stall (n : Nat) : (s.charge n).stall = s.stall := rfl
@[simp] theorem State.charge_pending (n : Nat) : (s.charge n).pending = s.pending := rfl
@[simp] theorem State.charge_halted (n : Nat) : (s.charge n).halted = s.halted := rfl
@[simp] theorem State.charge_ram (n : Nat) : (s.charge n).ram = s.ram := rfl
@[simp] theorem State.charge_cart (n : Nat) : (s.charge n).cart = s.cart := rfl
@[simp] theorem State.charge_cfg (n : Nat) : (s.charge n).cfg = s.cfg := rfl
@[simp] theorem State.charge_replies (n : Nat) : (s.charge n).replies = s.replies := rfl
@[simp] theorem State.charge_returned (n : Nat) : (s.charge n).returned = s.returned := rfl
@[simp] theorem State.charge_events (n : Nat) : (s.charge n).events = s.events := rfl

@[simp] theorem State.note_a (es : List BusEvent) : (s.note es).a = s.a := rfl
@[simp] theorem State.note_x (es : List BusEvent) : (s.note es).x = s.x := rfl
@[simp] theorem State.note_y (es : List BusEvent) : (s.note es).y = s.y := rfl
@[simp] theorem State.note_sp (es : List BusEvent) : (s.note es).sp = s.sp := rfl
@[simp] theorem State.note_pc (es : List BusEvent) : (s.note es).pc = s.pc := rfl
@[simp] theorem State.note_p (es : List BusEvent) : (s.note es).p = s.p := rfl
@[simp] theorem State.note_cycles (es : List BusEvent) : (s.note es).cycles = s.cycles := rfl
@[simp] theorem State.note_stall (es : List BusEvent) : (s.note es).stall = s.stall := rfl
@[simp] theorem State.note_pending (es : List BusEvent) : (s.note es).pending = s.pending := rfl
@[simp] theorem State.note_halted (es : List BusEvent) : (s.note es).halted = s.halted := rfl
@[simp] theorem State.note_ram (es : List BusEvent) : (s.note es).ram = s.ram := rfl
@[simp] theorem State.note_cart (es : List BusEvent) : (s.note es).cart = s.cart := rfl
@[simp] theorem State.note_cfg (es : List BusEvent) : (s.note es).cfg = s.cfg := rfl
@[simp] theorem State.note_replies (es : List BusEvent) : (s.note es).replies = s.replies := rfl
@[simp] theorem State.note_returned (es : List BusEvent) : (s.note es).returned = s.returned := rfl
@[simp] theorem State.note_events (es : List BusEvent) : (s.note es).events = s.events ++ es := rfl

@[simp] theorem State.setFlag_a (f : Flag) (v : Bool) : (s.setFlag f v).a = s.a := rfl
@[simp] theorem State.setFlag_x (f : Flag) (v : Bool) : (s.setFlag f v).x = s.x := rfl
@[simp] theorem State.setFlag_y (f : Flag) (v : Bool) : (s.setFlag f v).y = s.y := rfl
@[simp] theorem State.setFlag_sp (f : Flag) (v : Bool) : (s.setFlag f v).sp = s.sp := rfl
@[simp] theorem State.setFlag_pc (f : Flag) (v : Bool) : (s.setFlag f v).pc = s.pc := rfl
@[simp] theorem State.setFlag_p (f : Flag) (v : Bool) : (s.setFlag f v).p = putFlag s.p f v := rfl
@[simp] theorem State.setFlag_cycles (f : Flag) (v : Bool) : (s.setFlag f v).cycles = s.cycles := rfl
@[simp] theorem State.setFlag_stall (f : Flag) (v : Bool) : (s.setFlag f v).stall = s.stall := rfl
@[simp] theorem State.setFlag_pending (f : Flag) (v : Bool) : (s.setFlag f v).pending = s.pending := rfl
@[simp] theorem State.setFlag_halted (f : Flag) (v : Bool) : (s.setFlag f v).halted = s.halted := rfl
@[simp] theorem State.setFlag_ram (f : Flag) (v : Bool) : (s.setFlag f v).ram = s.ram := rfl
@[simp] theorem State.setFlag_cart (f : Flag) (v : Bool) : (s.setFlag f v).cart = s.cart := rfl
@[simp] theorem State.setFlag_cfg (f : Flag) (v : Bool) : (s.setFlag f v).cfg = s.cfg := rfl
@[simp] theorem State.setFlag_replies (f : Flag) (v : Bool) : (s.setFlag f v).replies = s.replies := rfl
@[simp] theorem State.setFlag_returned (f : Flag) (v : Bool) : (s.setFlag f v).returned = s.returned := rfl
@[simp] theorem State.setFlag_events (f : Flag) (v : Bool) : (s.setFlag f v).events = s.events := rfl

@[simp] theorem State.setNZ_a (v : Byte) : (s.setNZ v).a = s.a := rfl
@[simp] theorem State.setNZ_x (v : Byte) : (s.setNZ v).x = s.x := rfl
@[simp] theorem State.setNZ_y (v : Byte) : (s.setNZ v).y = s.y := rfl
@[simp] theorem State.setNZ_sp (v : Byte) : (s.setNZ v).sp = s.sp := rfl
@[simp] theorem State.setNZ_pc (v : Byte) : (s.setNZ v).pc = s.pc := rfl
@[simp] theorem State.setNZ_p (v : Byte) : (s.setNZ v).p = putNZ s.p v := rfl
@[simp] theorem State.setNZ_cycles (v : Byte) : (s.setNZ v).cycles = s.cycles := rfl
@[simp] theorem State.setNZ_stall (v : Byte) : (s.setNZ v).stall = s.stall := rfl
@[simp] theorem State.setNZ_pending (v : Byte) : (s.setNZ v).pending = s.pending := rfl
@[simp] theorem State.setNZ_halted (v : Byte) : (s.setNZ v).halted = s.halted := rfl
@[simp] theorem State.setNZ_ram (v : Byte) : (s.setNZ v).ram = s.ram := rfl
@[simp] theorem State.setNZ_cart (v : Byte) : (s.setNZ v).cart = s.cart := rfl
@[simp] theorem State.setNZ_cfg (v : Byte) : (s.setNZ v).cfg = s.cfg := rfl
@[simp] theorem State.setNZ_replies (v : Byte) : (s.setNZ v).replies = s.replies := rfl
@[simp] theorem State.setNZ_returned (v : Byte) : (s.setNZ v).returned = s.returned := rfl
@[simp] theorem State.setNZ_events (v : Byte) : (s.setNZ v).events = s.events := rfl

@[simp] theorem State.note_note (es fs : List BusEvent) : (s.note es).note fs = s.note (es ++ fs) := by
  simp [State.note]

@[simp] theorem State.note_nil : s.note [] = s := by simp [State.note]

end Sys2Proof.Machine
end

