-- ==== Sys2Proof/Laws/Flags.lean ====
section
/-! SUPPORT. What each flag computation leaves in each flag: one lemma per function on the flag byte, then the two that work on
the state. -/

namespace Sys2Proof.Machine

/-! ### Reading a flag or a register through an update -/

@[simp] theorem State.setA_flag (s : State) (v : Byte) (f : Flag) : (s.setA v).flag f = s.flag f := rfl
@[simp] theorem State.setX_flag (s : State) (v : Byte) (f : Flag) : (s.setX v).flag f = s.flag f := rfl
@[simp] theorem State.setY_flag (s : State) (v : Byte) (f : Flag) : (s.setY v).flag f = s.flag f := rfl
@[simp] theorem State.setSp_flag (s : State) (v : Byte) (f : Flag) : (s.setSp v).flag f = s.flag f := rfl
@[simp] theorem State.setPc_flag (s : State) (v : Word) (f : Flag) : (s.setPc v).flag f = s.flag f := rfl
@[simp] theorem State.setStall_flag (s : State) (n : Nat) (f : Flag) : (s.setStall n).flag f = s.flag f := rfl
@[simp] theorem State.setPending_flag (s : State) (k : Pending) (f : Flag) : (s.setPending k).flag f = s.flag f := rfl
@[simp] theorem State.setHalted_flag (s : State) (h : Bool) (f : Flag) : (s.setHalted h).flag f = s.flag f := rfl
@[simp] theorem State.setRam_flag (s : State) (m : Memory) (f : Flag) : (s.setRam m).flag f = s.flag f := rfl
@[simp] theorem State.setCart_flag (s : State) (c : Option Cartridge) (f : Flag) : (s.setCart c).flag f = s.flag f := rfl
@[simp] theorem State.setReturned_flag (s : State) (n : BitVec 64) (f : Flag) : (s.setReturned n).flag f = s.flag f := rfl
@[simp] theorem State.setEvents_flag (s : State) (es : List BusEvent) (f : Flag) : (s.setEvents es).flag f = s.flag f := rfl
@[simp] theorem State.charge_flag (s : State) (n : Nat) (f : Flag) : (s.charge n).flag f = s.flag f := rfl
@[simp] theorem State.note_flag (s : State) (es : List BusEvent) (f : Flag) : (s.note es).flag f = s.flag f := rfl
@[simp] theorem State.setP_flag (s : State) (v : Byte) (f : Flag) : (s.setP v).flag f = getFlag v f := rfl

/-- Writing one flag leaves the others. -/
theorem getFlag_putFlag (p : Byte) (f g : Flag) (v : Bool) :
    getFlag (putFlag p f v) g = if g = f then v else getFlag p g := by
  cases f <;> cases g <;> cases v <;>
    simp [getFlag, putFlag, Flag.bit]

@[simp] theorem State.setFlag_flag (s : State) (f g : Flag) (v : Bool) :
    (s.setFlag f v).flag g = if g = f then v else s.flag g := getFlag_putFlag s.p f g v

theorem getFlag_putNZ (p v : Byte) (g : Flag) :
    getFlag (putNZ p v) g = match g with
      | .n => bit7 v
      | .z => decide (v = 0)
      | g => getFlag p g := by
  cases g <;> simp [putNZ, getFlag_putFlag]

@[simp] theorem State.setNZ_flag (s : State) (v : Byte) (g : Flag) :
    (s.setNZ v).flag g = match g with
      | .n => bit7 v
      | .z => decide (v = 0)
      | g => s.flag g := getFlag_putNZ s.p v g

theorem getFlag_putCNZ (p : Byte) (o : ShiftOut) (g : Flag) :
    getFlag (putCNZ p o) g = match g with
      | .n => bit7 o.r
      | .z => decide (o.r = 0)
      | .c => o.c
      | g => getFlag p g := by
  cases g <;> simp [putCNZ, getFlag_putNZ, getFlag_putFlag]

theorem getFlag_putArith (p : Byte) (o : AluOut) (g : Flag) :
    getFlag (putArith p o) g = match g with
      | .n => bit7 o.r
      | .z => decide (o.r = 0)
      | .c => o.c
      | .v => o.v
      | g => getFlag p g := by
  cases g <;> simp [putArith, getFlag_putNZ, getFlag_putFlag]

theorem getFlag_putCmp (p : Byte) (o : CmpOut) (g : Flag) :
    getFlag (putCmp p o) g = match g with
      | .n => o.n
      | .z => o.z
      | .c => o.c
      | g => getFlag p g := by
  cases g <;> simp [putCmp, getFlag_putFlag]

theorem getFlag_putBit (p : Byte) (o : BitOut) (g : Flag) :
    getFlag (putBit p o) g = match g with
      | .n => o.n
      | .z => o.z
      | .v => o.v
      | g => getFlag p g := by
  cases g <;> simp [putBit, getFlag_putFlag]

/-- The copy that PHP and BRK push has B and bit 5 set and every other bit of P. -/
theorem getFlag_pushedBySoftware (p : Byte) (g : Flag) :
    getFlag (pushedBySoftware p) g = match g with
      | .b => true
      | .u => true
      | g => getFlag p g := by
  cases g <;> simp [pushedBySoftware, getFlag, Flag.bit]

/-- The copy that an interrupt entry pushes has `INT_PUSH_B` as B, bit 5 set, and every other bit of P. -/
theorem getFlag_pushedByInterrupt (b : Bool) (p : Byte) (g : Flag) :
    getFlag (pushedByInterrupt b p) g = match g with
      | .b => b
      | .u => true
      | g => getFlag p g := by
  cases g <;> cases b <;>
    simp [pushedByInterrupt, carryByte, getFlag, Flag.bit]

/-- The flags that PLP and RTI load have B clear and bit 5 set and every other bit of the pulled byte. -/
theorem getFlag_pulledFlags (v : Byte) (g : Flag) :
    getFlag (pulledFlags v) g = match g with
      | .b => false
      | .u => true
      | g => getFlag v g := by
  cases g <;> simp [pulledFlags, getFlag, Flag.bit]

/-- A flag byte is its eight flags. -/
theorem flags_ext {p q : Byte} (h : ∀ f, getFlag p f = getFlag q f) : p = q := by
  apply BitVec.eq_of_getLsbD_eq
  intro i hi
  rcases i with _ | _ | _ | _ | _ | _ | _ | _ | i
  · exact h .c
  · exact h .z
  · exact h .i
  · exact h .d
  · exact h .b
  · exact h .u
  · exact h .v
  · exact h .n
  · omega

end Sys2Proof.Machine
end

