-- ==== Sys2Proof/Laws/Memory.lean ====
section
/-! SUPPORT. Memory: reading after writing, and the canonical form, which every memory operation keeps. -/

namespace Sys2Proof.Machine

/-! ### Reading after writing -/

theorem Memory.read_erase (m : Memory) (a b : Nat) :
    (m.erase a).read b = if b = a then Memory.unlisted else m.read b := by
  induction m with
  | nil => simp [Memory.erase, Memory.read]
  | cons c m ih =>
    obtain ⟨d, u⟩ := c
    by_cases hd : d = a
    · subst hd
      by_cases hb : b = d
      · subst hb; simpa [Memory.erase] using ih
      · simp [Memory.erase, ih, hb, Memory.read, Ne.symm hb]
    · by_cases hb : d = b
      · subst hb; simp [Memory.erase, Memory.read, hd]
      · simp [Memory.erase, Memory.read, hd, hb, ih]

theorem Memory.read_insert (m : Memory) (a b : Nat) (v : Byte) (h : m.read a = Memory.unlisted)
    (hm : ∀ c ∈ m, c.1 ≠ a) : (m.insert a v).read b = if b = a then v else m.read b := by
  induction m with
  | nil =>
    by_cases hb : b = a
    · simp [Memory.insert, Memory.read, hb]
    · simp [Memory.insert, Memory.read, hb, Ne.symm hb]
  | cons c m ih =>
    obtain ⟨d, u⟩ := c
    have hd : d ≠ a := hm (d, u) (by simp)
    have hr : Memory.read m a = Memory.unlisted := by simpa [Memory.read, hd] using h
    have ih := ih hr fun c hc => hm c (List.mem_cons_of_mem _ hc)
    by_cases hlt : a < d
    · by_cases hb : b = a
      · simp [Memory.insert, Memory.read, hlt, hb]
      · simp [Memory.insert, Memory.read, hlt, hb, Ne.symm hb]
    · by_cases hb : d = b
      · subst hb; simp [Memory.insert, Memory.read, hlt, hd]
      · simp [Memory.insert, Memory.read, hlt, hb, ih]

theorem Memory.mem_erase {m : Memory} {a : Nat} {c : Host.Cell} : c ∈ m.erase a ↔ c ∈ m ∧ c.1 ≠ a := by
  induction m with
  | nil => simp [Memory.erase]
  | cons d m ih =>
    obtain ⟨e, u⟩ := d
    by_cases he : e = a
    · simp only [Memory.erase, he, if_true, ih, List.mem_cons]
      constructor
      · rintro ⟨h, h1⟩; exact ⟨.inr h, h1⟩
      · rintro ⟨h | h, h1⟩
        · exact absurd (congrArg Prod.fst h) h1
        · exact ⟨h, h1⟩
    · simp only [Memory.erase, he, if_false, List.mem_cons, ih]
      constructor
      · rintro (h | h)
        · exact ⟨.inl h, by rw [h]; exact he⟩
        · exact ⟨.inr h.1, h.2⟩
      · rintro ⟨h | h, h1⟩
        · exact .inl h
        · exact .inr ⟨h, h1⟩

/-- A read gives the value of the most recent write to that address (spec/20_memory.md R85). -/
@[simp] theorem Memory.read_write (m : Memory) (a b : Nat) (v : Byte) :
    (m.write a v).read b = if b = a then v else m.read b := by
  unfold Memory.write
  by_cases hv : v = Memory.unlisted
  · simp [hv, Memory.read_erase]
  · rw [if_neg hv, Memory.read_insert _ _ _ _ (by simp [Memory.read_erase])
      (fun c hc => (Memory.mem_erase.mp hc).2)]
    by_cases hb : b = a <;> simp [hb, Memory.read_erase]

/-! ### The canonical form -/

/-- The canonical form as a property of the list. -/
theorem Memory.wf_iff (m : Memory) :
    m.wf = true ↔ m.Pairwise (fun c d => c.1 < d.1) ∧ ∀ c ∈ m, c.2 ≠ Memory.unlisted := by
  induction m with
  | nil => simp [Memory.wf]
  | cons c m ih =>
    obtain ⟨b, u⟩ := c
    cases m with
    | nil => simp [Memory.wf]
    | cons d m =>
      obtain ⟨e, v⟩ := d
      simp only [Memory.wf, Bool.and_eq_true, bne_iff_ne, ne_eq, decide_eq_true_eq, ih]
      constructor
      · rintro ⟨⟨hu, hbe⟩, hp, hm⟩
        refine ⟨List.pairwise_cons.mpr ⟨?_, hp⟩, ?_⟩
        · intro x hx
          rcases List.mem_cons.mp hx with rfl | hx
          · exact hbe
          · exact Nat.lt_trans hbe ((List.pairwise_cons.mp hp).1 x hx)
        · intro x hx
          rcases List.mem_cons.mp hx with rfl | hx
          · exact hu
          · exact hm x hx
      · rintro ⟨hp, hm⟩
        have hp' := List.pairwise_cons.mp hp
        exact ⟨⟨hm (b, u) (by simp), hp'.1 (e, v) (by simp)⟩, hp'.2,
          fun x hx => hm x (List.mem_cons_of_mem _ hx)⟩

theorem Memory.erase_wf {m : Memory} (h : m.wf = true) (a : Nat) : (m.erase a).wf = true := by
  rw [Memory.wf_iff] at h ⊢
  refine ⟨?_, fun c hc => h.2 c (Memory.mem_erase.mp hc).1⟩
  have hsub : ∀ m : Memory, (m.erase a).Sublist m := by
    intro m
    induction m with
    | nil => exact List.Sublist.slnil
    | cons c m ih =>
      obtain ⟨d, u⟩ := c
      by_cases hd : d = a
      · simp only [Memory.erase, hd, if_true]; exact ih.cons _
      · simp only [Memory.erase, hd, if_false]; exact ih.cons_cons _
  exact h.1.sublist (hsub m)

theorem Memory.mem_insert {m : Memory} {a : Nat} {v : Byte} {c : Host.Cell} :
    c ∈ m.insert a v ↔ c = (a, v) ∨ c ∈ m := by
  induction m with
  | nil => simp [Memory.insert]
  | cons d m ih =>
    obtain ⟨e, u⟩ := d
    by_cases h : a < e
    · simp [Memory.insert, h]
    · simp only [Memory.insert, h, if_false, List.mem_cons, ih]
      exact or_left_comm

theorem Memory.insert_wf {m : Memory} (h : m.wf = true) {a : Nat} {v : Byte} (hv : v ≠ Memory.unlisted)
    (hm : ∀ c ∈ m, c.1 ≠ a) : (m.insert a v).wf = true := by
  rw [Memory.wf_iff] at h ⊢
  refine ⟨?_, ?_⟩
  · obtain ⟨hp, -⟩ := h
    induction m with
    | nil => simp [Memory.insert]
    | cons d m ih =>
      obtain ⟨e, u⟩ := d
      have hp' := List.pairwise_cons.mp hp
      have hea : e ≠ a := hm (e, u) (by simp)
      by_cases hlt : a < e
      · simp only [Memory.insert, hlt, if_true]
        refine List.pairwise_cons.mpr ⟨?_, hp⟩
        intro x hx
        rcases List.mem_cons.mp hx with rfl | hx
        · exact hlt
        · exact Nat.lt_trans hlt (hp'.1 x hx)
      · simp only [Memory.insert, hlt, if_false]
        refine List.pairwise_cons.mpr ⟨?_, ih (fun c hc => hm c (List.mem_cons_of_mem _ hc)) hp'.2⟩
        intro x hx
        rcases Memory.mem_insert.mp hx with rfl | hx
        · show e < a
          omega
        · exact hp'.1 x hx
  · intro c hc
    rcases Memory.mem_insert.mp hc with rfl | hc
    · exact hv
    · exact h.2 c hc

/-- A write keeps the canonical form. -/
theorem Memory.write_wf {m : Memory} (h : m.wf = true) (a : Nat) (v : Byte) : (m.write a v).wf = true := by
  unfold Memory.write
  split
  · exact Memory.erase_wf h a
  · rename_i hv
    exact Memory.insert_wf (Memory.erase_wf h a) hv fun c hc => (Memory.mem_erase.mp hc).2

/-- A write below `n` keeps a memory within `n`. -/
theorem Memory.write_fits {m : Memory} {n : Nat} (h : m.fits n = true) {a : Nat} (ha : a < n) (v : Byte) :
    (m.write a v).fits n = true := by
  simp only [Memory.fits, List.all_eq_true, decide_eq_true_eq] at h ⊢
  intro c hc
  unfold Memory.write at hc
  split at hc
  · exact h c (Memory.mem_erase.mp hc).1
  · rcases Memory.mem_insert.mp hc with rfl | hc
    · exact ha
    · exact h c (Memory.mem_erase.mp hc).1

theorem Memory.mem_ofBytes {bs : List Byte} {a : Nat} {c : Host.Cell} (h : c ∈ Memory.ofBytes bs a) :
    a ≤ c.1 ∧ c.1 < a + bs.length ∧ c.2 ≠ Memory.unlisted := by
  induction bs generalizing a with
  | nil => simp [Memory.ofBytes] at h
  | cons v vs ih =>
    unfold Memory.ofBytes at h
    simp only [List.length_cons]
    split at h
    · have := ih h
      exact ⟨by omega, by omega, this.2.2⟩
    · rename_i hv
      rcases List.mem_cons.mp h with rfl | h
      · refine ⟨Nat.le_refl _, ?_, hv⟩
        show a < _
        omega
      · have := ih h
        refine ⟨?_, ?_, this.2.2⟩ <;> omega

/-- The memory of a list of bytes is in canonical form. -/
theorem Memory.ofBytes_wf (bs : List Byte) (a : Nat) : (Memory.ofBytes bs a).wf = true := by
  rw [Memory.wf_iff]
  refine ⟨?_, fun c hc => (Memory.mem_ofBytes hc).2.2⟩
  induction bs generalizing a with
  | nil => exact List.Pairwise.nil
  | cons v vs ih =>
    unfold Memory.ofBytes
    split
    · exact ih (a + 1)
    · refine List.pairwise_cons.mpr ⟨fun c hc => ?_, ih (a + 1)⟩
      have := (Memory.mem_ofBytes hc).1
      show a < c.1
      omega

theorem Memory.ofBytes_fits (bs : List Byte) (n : Nat) (h : bs.length ≤ n) : (Memory.ofBytes bs 0).fits n = true := by
  simp only [Memory.fits, List.all_eq_true, decide_eq_true_eq]
  intro c hc
  have := Memory.mem_ofBytes hc
  omega

theorem Memory.read_of_lt {m : Memory} {b : Nat} (h : ∀ c ∈ m, b < c.1) : m.read b = Memory.unlisted := by
  induction m with
  | nil => rfl
  | cons c m ih =>
    obtain ⟨d, u⟩ := c
    have hd : b < d := h (d, u) (by simp)
    rw [Memory.read, if_neg (by omega)]
    exact ih fun c hc => h c (List.mem_cons_of_mem _ hc)

/-- The memory of a list of bytes reads as the list. -/
theorem Memory.read_ofBytes (bs : List Byte) (a k : Nat) :
    (Memory.ofBytes bs a).read (a + k) = bs.getD k Memory.unlisted := by
  induction bs generalizing a k with
  | nil => simp [Memory.ofBytes, Memory.read]
  | cons v vs ih =>
    cases k with
    | zero =>
      unfold Memory.ofBytes
      split
      · rename_i hv
        rw [Memory.read_of_lt fun c hc => by have := (Memory.mem_ofBytes hc).1; omega]
        simp [hv]
      · simp [Memory.read]
    | succ k =>
      have hk : a + (k + 1) = a + 1 + k := by omega
      unfold Memory.ofBytes
      split
      · rw [hk, ih]; simp
      · rw [Memory.read, if_neg (by omega), hk, ih]; simp

/-- The bytes of a memory, read out, are what its addresses read as. -/
theorem Memory.getElem_toBytes (m : Memory) (a n k : Nat) (h : k < n) :
    (m.toBytes a n)[k]? = some (m.read (a + k)) := by
  induction n generalizing a k with
  | zero => omega
  | succ n ih =>
    cases k with
    | zero => simp [Memory.toBytes]
    | succ k =>
      have hk : a + (k + 1) = a + 1 + k := by omega
      simp only [Memory.toBytes, List.getElem?_cons_succ]
      rw [ih (a + 1) k (by omega), hk]

/-- The memory at reset lists nothing and so has the canonical form. -/
theorem State.reset_ram_wf : State.reset.ram.wf = true := rfl

end Sys2Proof.Machine
end

