-- ==== Sys2Proof/Laws/Mapper.lean ====
section
/-! SUPPORT. What the mapper and the loader keep: the invariant of the cartridge, through every write, clock and load. And the
loader's checksum, one message bit at a time, and `n` cycles of the cycle-based interrupt generator, one at a time. -/

namespace Sys2Proof.Machine

/-- A write below the bound keeps a memory canonical and within the bound. -/
theorem Memory.within_write {m : Memory} {n a : Nat} {v : Byte} (h : m.within n = true) (ha : a < n) :
    (m.write a v).within n = true := by
  unfold Memory.within at *
  rw [Bool.and_eq_true] at *
  exact ⟨Memory.write_wf h.1 a v, Memory.write_fits h.2 ha v⟩

/-- A register write keeps the shift register of the MMC1-class board as it is received. -/
theorem Mmc1.write_inv (m : Mmc1) (a : Word) (v : Byte) (h : m.Inv) : (m.write a v).Inv := by
  obtain ⟨h1, h2⟩ := h
  unfold Mmc1.write
  split
  · exact ⟨by simp [Mmc1.resetWrite], by simp [Mmc1.resetWrite]⟩
  split
  · unfold Mmc1.load; split <;> exact ⟨by simp, by simp⟩
  · refine ⟨by simp; omega, ?_⟩
    show (m.received v).toNat < 2 ^ (m.count + 1)
    unfold Mmc1.received
    have hc : m.count = 0 ∨ m.count = 1 ∨ m.count = 2 ∨ m.count = 3 := by omega
    have key : ∀ (c : Fin 4) (x : BitVec 5) (b : Bool), x.toNat < 2 ^ c.val →
        (x ||| ((if b then 1 else 0) <<< c.val)).toNat < 2 ^ (c.val + 1) := by decide
    exact key ⟨m.count, by omega⟩ m.shift (v.getLsbD 0) h2

/-- A translated offset lies within the array when the array has a whole bank. -/
theorem windowOffset_lt (b : Int) (len k d : Nat) (hd : d < k) (h : 0 < len / k) : windowOffset b len k d < len := by
  unfold windowOffset bankIndex bankCount
  have h0 : (0 : Int) < (len / k : Nat) := by exact_mod_cast h
  have h1 := Int.emod_lt_of_pos b h0
  have h2 := Int.emod_nonneg b (Int.ne_of_gt h0)
  have h3 : (b % ((len / k : Nat) : Int)).toNat < len / k := by omega
  generalize (b % ((len / k : Nat) : Int)).toNat = q at *
  have h4 : (q + 1) * k ≤ len / k * k := Nat.mul_le_mul_right k h3
  have h5 := Nat.div_mul_le_self len k
  have h6 : (q + 1) * k = q * k + k := by ring
  omega

/-- Every CHR offset lies within the character store. -/
theorem Cartridge.chrOffset_lt (cfg : Config) (c : Cartridge) (a : Nat) (h : c.Inv cfg) : c.chrOffset a < c.chrLen := by
  unfold Cartridge.chrOffset
  have hp := h.chrLen_pos; have hb := h.chrLen_banks
  cases hB : c.board <;> simp only [Board.chrWindow] <;> (apply windowOffset_lt; · exact Nat.mod_lt _ (by decide)
                                                          · omega)

/-- The embedded components keep the invariant of the cartridge. -/
theorem Cartridge.componentWrite_inv (cfg : Config) (c : Cartridge) (a : Word) (v : Byte) (h : c.Inv cfg) :
    (c.componentWrite cfg a v).1.Inv cfg := by
  refine ⟨h.1, h.2, h.3, h.4, h.5, h.6, h.7, h.8, h.9, h.10, ?_⟩
  intro g hg hpos
  unfold Cartridge.componentWrite at hg
  simp only at hg
  split at hg
  · rename_i g0 op h1 h2
    simp only [Option.some.injEq] at hg
    subst hg
    cases op
    · exact h.11 g0 h1 hpos
    · exact hpos
    · exact h.11 g0 h1 hpos
  · exact h.11 g hg hpos

/-- The board keeps the invariant of the cartridge. -/
theorem Cartridge.boardWrite_inv (cfg : Config) (c : Cartridge) (a : Word) (v : Byte) (h : c.Inv cfg) :
    (c.boardWrite a v).1.Inv cfg := by
  have hB := h.board
  unfold Cartridge.BoardInv at hB
  unfold Cartridge.boardWrite
  split
  · exact h
  · rename_i m hm
    rw [hm] at hB
    refine ⟨h.1, h.2, h.3, h.4, h.5, h.6, h.7, h.8, ?_, Mmc1.write_inv m a v hB, h.11⟩
    show (if _ then _ else _) ∉ _
    split
    · unfold Mmc1.mirroring; split <;> decide
    · exact h.9
  · rename_i m hm
    rw [hm] at hB
    refine ⟨h.1, h.2, h.3, h.4, h.5, h.6, h.7, h.8, ?_, ?_, h.11⟩
    · show Mmc3.mirroringWrite _ _ _ _ ∉ _
      unfold Mmc3.mirroringWrite
      split
      · split <;> decide
      · exact h.9
    · show c.initialMirroring = .fourScreen → Mmc3.mirroringWrite _ _ _ _ = .fourScreen
      intro h4
      unfold Mmc3.mirroringWrite
      rw [if_neg (by simp [h4])]
      exact hB h4

/-- A write to the mapper keeps the invariant of the cartridge. -/
theorem Cartridge.write_inv (cfg : Config) (c : Cartridge) (a : Word) (v : Byte) (h : c.Inv cfg) :
    (c.write cfg a v).1.Inv cfg := by
  unfold Cartridge.write
  split
  · show (if _ then _ else _ : Cartridge).Inv cfg
    split
    · exact ⟨h.1, h.2, h.3, Memory.within_write h.4 (Cartridge.chrOffset_lt cfg c _ h),
        h.5, h.6, h.7, h.8, h.9, h.10, h.11⟩
    · exact h
  split
  · exact h
  split
  · refine ⟨h.1, h.2, h.3, h.4, h.5, h.6, Memory.within_write h.7 (by omega), h.8, h.9, h.10, h.11⟩
  · exact Cartridge.componentWrite_inv cfg _ a v (Cartridge.boardWrite_inv cfg c a v h)

/-- A video step keeps the invariant of the cartridge. -/
theorem Cartridge.stepVideo_inv (cfg : Config) (c : Cartridge) (sl cy) (b d) (h : c.Inv cfg) :
    (c.stepVideo cfg sl cy b d).1.Inv cfg := by
  have hB := h.board
  unfold Cartridge.BoardInv at hB
  unfold Cartridge.stepVideo
  split
  · rename_i m hm
    rw [hm] at hB
    split
    · exact ⟨h.1, h.2, h.3, h.4, h.5, h.6, h.7, h.8, h.9, hB, h.11⟩
    · exact h
  · exact h
  · exact h

/-- Ticks keep the prescaler below the divide ratio. -/
theorem CycleIrq.ticks_prescaler_lt (d n : Nat) (g : CycleIrq) (h : g.prescaler < d) : (g.ticks d n).1.prescaler < d := by
  induction n generalizing g with
  | zero => exact h
  | succ n ih =>
    refine ih _ ?_
    unfold CycleIrq.tick
    split
    · split <;> (show 0 < d; omega)
    · show g.prescaler + 1 < d; omega

/-- The CPU-cycle clock keeps the invariant of the cartridge. -/
theorem Cartridge.tickCpu_inv (cfg : Config) (c : Cartridge) (n) (h : c.Inv cfg) : (c.tickCpu cfg n).1.Inv cfg := by
  unfold Cartridge.tickCpu
  split
  · rename_i g hg
    refine ⟨h.1, h.2, h.3, h.4, h.5, h.6, h.7, h.8, h.9, h.10, ?_⟩
    intro g' hg' hp
    cases hg'
    exact CycleIrq.ticks_prescaler_lt _ _ _ (h.11 g hg hp)
  · exact h

/-- A load that succeeds builds a cartridge that meets the invariant. -/
theorem loadImage_inv (cfg : Config) (image : List Byte) (c : Cartridge) (h : loadImage cfg image = .ok c) : c.Inv cfg := by
  unfold loadImage at h
  split at h
  · cases h
  · rename_i hd _
    split at h
    · cases h
    rename_i hprg
    split at h
    · dsimp only at h
      split at h
      · rename_i b hb
        cases h
        have hmir : hd.mirroring ∈ [Mirroring.horizontal, .vertical, .fourScreen] := by
          unfold Header.mirroring; split; decide; split <;> decide
        have hpos : 0 < hd.prgCount := Nat.pos_of_ne_zero hprg
        refine ⟨?_, ?_, ?_, ?_, ?_, ?_, rfl, hmir, ?_, ?_, ?_⟩
        · show (_ && _) = true
          rw [Bool.and_eq_true]
          exact ⟨Memory.ofBytes_wf _ _, Memory.ofBytes_fits _ _ (by simp [Header.prgBytes, buildCartridge])⟩
        · show 0 < 16384 * hd.prgCount; omega
        · show 16384 * hd.prgCount % 16384 = 0; omega
        · show (_ && _) = true
          rw [Bool.and_eq_true]
          refine ⟨Memory.ofBytes_wf _ _, Memory.ofBytes_fits _ _ ?_⟩
          show _ ≤ (if hd.chrCount = 0 then 8192 else 8192 * hd.chrCount)
          have : (hd.chrBytes image).length ≤ 8192 * hd.chrCount := by simp [Header.chrBytes, Header.chrLength]
          split <;> omega
        · show 0 < (if hd.chrCount = 0 then 8192 else 8192 * hd.chrCount); split <;> omega
        · show (if hd.chrCount = 0 then 8192 else 8192 * hd.chrCount) % 8192 = 0; split <;> omega
        · show hd.mirroring ∉ _
          intro hx; revert hmir hx; generalize hd.mirroring = m; cases m <;> decide
        · show (match b with | _ => _)
          unfold boardFor at hb
          split at hb
          · split at hb <;> cases hb
            · rfl
            · exact ⟨by decide, by decide⟩
            · exact fun h => h
          · cases hb
        · intro g hg; cases hg
      · cases h
    · cases h

/-- No write to the mapper reaches the program store, or what the header fixed. -/
theorem Cartridge.write_static (cfg : Config) (c : Cartridge) (a : Word) (v : Byte) :
    let d := (c.write cfg a v).1
    d.prg = c.prg ∧ d.prgLen = c.prgLen ∧ d.chrLen = c.chrLen ∧ d.chrIsRam = c.chrIsRam ∧ d.mapperId = c.mapperId ∧
      d.initialMirroring = c.initialMirroring ∧ d.battery = c.battery ∧ d.crc = c.crc := by
  unfold Cartridge.write
  split
  · dsimp only
    split <;> simp
  split
  · simp
  split
  · simp
  · unfold Cartridge.registerWrite Cartridge.componentWrite Cartridge.boardWrite
    cases c.board <;> simp

/-! ### The checksum of an image -/

/-- One bit of the loader's CRC-32 over a byte added to the register is one message bit, and the byte's next bits stay added. -/
theorem crcBit_xor (r : BitVec 32) (w : Byte) :
    crcBit (r ^^^ w.zeroExtend 32) = crcMessageBit r (w.getLsbD 0) ^^^ (w >>> 1).zeroExtend 32 := by
  have h1 : (r ^^^ w.zeroExtend 32).getLsbD 0 = (r.getLsbD 0 ^^ w.getLsbD 0) := by simp
  have h2 : (r ^^^ w.zeroExtend 32) >>> 1 = (r >>> 1) ^^^ (w >>> 1).zeroExtend 32 :=
    BitVec.eq_of_getLsbD_eq fun i _ => by simp
  unfold crcBit crcMessageBit
  rw [h1, h2]
  split
  · rw [BitVec.xor_assoc, BitVec.xor_assoc, BitVec.xor_comm (BitVec.zeroExtend 32 _)]
  · rfl

/-- `n` message bits of a byte, from bit `j` on. -/
theorem crcBits_xor (n j : Nat) (r : BitVec 32) (v : Byte) :
    crcBits (r ^^^ (v >>> j).zeroExtend 32) n =
      (List.range' j n).foldl (fun r k => crcMessageBit r (v.getLsbD k)) r ^^^ (v >>> (j + n)).zeroExtend 32 := by
  induction n generalizing j r with
  | zero => rfl
  | succ n ih =>
    have h : (v >>> j).getLsbD 0 = v.getLsbD j := by simp
    rw [crcBits, crcBit_xor, h, ← BitVec.shiftRight_add, ih, List.range'_succ, List.foldl_cons, Nat.add_assoc, Nat.add_comm 1 n]

/-- The loader's checksum is the CRC-32 of spec/50_cartridge.md R394 one message bit at a time. -/
theorem crc32_eq_bitwise (bytes : List Byte) : crc32 bytes = bitwiseCrc32 bytes := by
  have h : crcByte = fun r v => (List.range 8).foldl (fun r k => crcMessageBit r (v.getLsbD k)) r := by
    funext r v
    have k := crcBits_xor 8 0 r v
    have z : (v >>> (0 + 8)).zeroExtend 32 = 0#32 := BitVec.eq_of_getLsbD_eq fun i _ => by simp
    rw [z, BitVec.xor_zero, BitVec.ushiftRight_zero, ← List.range_eq_range'] at k
    exact k
  unfold crc32 bitwiseCrc32
  rw [h]

/-! ### The cycle-based interrupt generator (spec/51_mapper_common.md R426) -/

/-- One cycle first, then `n` more. -/
theorem CycleIrq.afterTicks_tick (divide n : Nat) (g : CycleIrq) :
    (g.tick divide).1.afterTicks divide n = g.afterTicks divide (n + 1) := by
  induction n with
  | zero => rfl
  | succ n ih =>
    show (((g.tick divide).1.afterTicks divide n).tick divide).1 = _
    rw [ih]
    rfl

/-- `n` cycles are `n` times one cycle, with the requests of each in order. -/
theorem CycleIrq.ticks_eq (divide n : Nat) (g : CycleIrq) :
    g.ticks divide n = (g.afterTicks divide n, (List.range n).flatMap fun k => ((g.afterTicks divide k).tick divide).2) := by
  induction n generalizing g with
  | zero => rfl
  | succ n ih =>
    rw [CycleIrq.ticks]
    simp only [ih]
    rw [CycleIrq.afterTicks_tick, List.range_succ_eq_map, List.flatMap_cons, List.flatMap_map]
    simp only [CycleIrq.afterTicks_tick]
    rfl

/-- A cycle emits nothing but requests. -/
theorem CycleIrq.tick_requests (divide : Nat) (g : CycleIrq) : ∀ e ∈ (g.tick divide).2, e = .irq := by
  intro e h
  unfold CycleIrq.tick at h
  (repeat' split at h) <;> simp_all

/-- A cycle keeps the generator enabled or disabled. -/
theorem CycleIrq.tick_enabled (divide : Nat) (g : CycleIrq) : (g.tick divide).1.enabled = g.enabled := by
  unfold CycleIrq.tick
  (repeat' split) <;> rfl

theorem CycleIrq.afterTicks_enabled (divide k : Nat) (g : CycleIrq) : (g.afterTicks divide k).enabled = g.enabled := by
  induction k with
  | zero => rfl
  | succ k ih => exact (CycleIrq.tick_enabled divide _).trans ih

/-- A second request is lost in the first (spec/60_exceptions.md R521). -/
theorem requestIrq_requestIrq (point : IrqMaskPoint) (masked : Bool) (k : Pending) :
    requestIrq point masked (requestIrq point masked k) = requestIrq point masked k := by
  cases k <;> cases point <;> cases masked <;> rfl

/-- The pending request after any number of the mapper's requests is that after one. -/
theorem State.eventsPending_requests (s : State) (es : List BusEvent) (h : ∀ e ∈ es, e = .irq) :
    s.eventsPending es = if es = [] then s.pending else s.signalIrq.pending := by
  show es.foldl _ s.pending = if es = [] then s.pending else requestIrq s.cfg.irqMaskPoint (s.flag .i) s.pending
  generalize s.pending = k
  induction es generalizing k with
  | nil => rfl
  | cons e es ih =>
    rw [List.foldl_cons, ih (fun e he => h e (.tail _ he)), h e (.head _)]
    show (if es = [] then requestIrq _ _ k else requestIrq _ _ (requestIrq _ _ k)) = _
    rw [requestIrq_requestIrq]
    simp

end Sys2Proof.Machine
end

