-- ==== Sys2Proof/Laws/Ops.lean ====
section
/-! SUPPORT. What each shared operation of Machine/Ops.lean can do: its frame field by field; `Stored` for the bus write, which
says everything about memory; and `BusAlike`, under which every access does the same. -/

namespace Sys2Proof.Machine

/-! ### Routing: which fields an access depends on -/

theorem State.route_congr {s t : State} (hc : t.cart = s.cart) (hg : t.cfg = s.cfg) (a : Word) :
    t.route a = s.route a := by
  unfold State.route
  rw [hc, hg]

/-- A read outside the device windows depends on RAM, cartridge and configuration only. -/
theorem State.peek_memory {s t : State} (hr : t.ram = s.ram) (hc : t.cart = s.cart) (hg : t.cfg = s.cfg) (a : Word)
    (h : s.route a ≠ .device) : t.peek a = s.peek a := by
  unfold State.peek
  rw [State.route_congr hc hg]
  split <;> simp_all

/-- A read in a device window depends on the replies too. -/
theorem State.peek_congr {s t : State} (hr : t.ram = s.ram) (hc : t.cart = s.cart) (hg : t.cfg = s.cfg)
    (hq : t.replies = s.replies) (a : Word) : t.peek a = s.peek a := by
  unfold State.peek State.nextDeviceByte
  rw [State.route_congr hc hg, hr, hq]

@[simp] theorem State.setA_peek (s : State) (v : Byte) (a : Word) : (s.setA v).peek a = s.peek a := rfl
@[simp] theorem State.setX_peek (s : State) (v : Byte) (a : Word) : (s.setX v).peek a = s.peek a := rfl
@[simp] theorem State.setY_peek (s : State) (v : Byte) (a : Word) : (s.setY v).peek a = s.peek a := rfl
@[simp] theorem State.setSp_peek (s : State) (v : Byte) (a : Word) : (s.setSp v).peek a = s.peek a := rfl
@[simp] theorem State.setPc_peek (s : State) (v : Word) (a : Word) : (s.setPc v).peek a = s.peek a := rfl
@[simp] theorem State.setP_peek (s : State) (v : Byte) (a : Word) : (s.setP v).peek a = s.peek a := rfl
@[simp] theorem State.setStall_peek (s : State) (n : Nat) (a : Word) : (s.setStall n).peek a = s.peek a := rfl
@[simp] theorem State.setPending_peek (s : State) (k : Pending) (a : Word) : (s.setPending k).peek a = s.peek a := rfl
@[simp] theorem State.setHalted_peek (s : State) (h : Bool) (a : Word) : (s.setHalted h).peek a = s.peek a := rfl
@[simp] theorem State.setReturned_peek (s : State) (n : BitVec 64) (a : Word) : (s.setReturned n).peek a = s.peek a := rfl
@[simp] theorem State.setEvents_peek (s : State) (es : List BusEvent) (a : Word) : (s.setEvents es).peek a = s.peek a := rfl
@[simp] theorem State.charge_peek (s : State) (n : Nat) (a : Word) : (s.charge n).peek a = s.peek a := rfl
@[simp] theorem State.note_peek (s : State) (es : List BusEvent) (a : Word) : (s.note es).peek a = s.peek a := rfl
@[simp] theorem State.setFlag_peek (s : State) (f : Flag) (v : Bool) (a : Word) : (s.setFlag f v).peek a = s.peek a := rfl
@[simp] theorem State.setNZ_peek (s : State) (v : Byte) (a : Word) : (s.setNZ v).peek a = s.peek a := rfl
@[simp] theorem State.setA_route (s : State) (v : Byte) (a : Word) : (s.setA v).route a = s.route a := rfl
@[simp] theorem State.setX_route (s : State) (v : Byte) (a : Word) : (s.setX v).route a = s.route a := rfl
@[simp] theorem State.setY_route (s : State) (v : Byte) (a : Word) : (s.setY v).route a = s.route a := rfl
@[simp] theorem State.setSp_route (s : State) (v : Byte) (a : Word) : (s.setSp v).route a = s.route a := rfl
@[simp] theorem State.setPc_route (s : State) (v : Word) (a : Word) : (s.setPc v).route a = s.route a := rfl
@[simp] theorem State.setP_route (s : State) (v : Byte) (a : Word) : (s.setP v).route a = s.route a := rfl
@[simp] theorem State.setStall_route (s : State) (n : Nat) (a : Word) : (s.setStall n).route a = s.route a := rfl
@[simp] theorem State.setPending_route (s : State) (k : Pending) (a : Word) : (s.setPending k).route a = s.route a := rfl
@[simp] theorem State.setHalted_route (s : State) (h : Bool) (a : Word) : (s.setHalted h).route a = s.route a := rfl
@[simp] theorem State.setReturned_route (s : State) (n : BitVec 64) (a : Word) : (s.setReturned n).route a = s.route a := rfl
@[simp] theorem State.setEvents_route (s : State) (es : List BusEvent) (a : Word) :
    (s.setEvents es).route a = s.route a := rfl
@[simp] theorem State.charge_route (s : State) (n : Nat) (a : Word) : (s.charge n).route a = s.route a := rfl
@[simp] theorem State.note_route (s : State) (es : List BusEvent) (a : Word) : (s.note es).route a = s.route a := rfl
@[simp] theorem State.setFlag_route (s : State) (f : Flag) (v : Bool) (a : Word) : (s.setFlag f v).route a = s.route a := rfl
@[simp] theorem State.setNZ_route (s : State) (v : Byte) (a : Word) : (s.setNZ v).route a = s.route a := rfl
@[simp] theorem State.setRam_route (s : State) (m : Memory) (a : Word) : (s.setRam m).route a = s.route a := rfl
@[simp] theorem State.setReplies_route (s : State) (rs : List Reply) (a : Word) :
    (s.setReplies rs).route a = s.route a := rfl

/-! ### Reading a register through an update -/

@[simp] theorem State.setA_reg (s : State) (v : Byte) (r : Reg) :
    (s.setA v).reg r = if r = .a then v else s.reg r := by
  cases r <;> rfl
@[simp] theorem State.setX_reg (s : State) (v : Byte) (r : Reg) :
    (s.setX v).reg r = if r = .x then v else s.reg r := by
  cases r <;> rfl
@[simp] theorem State.setY_reg (s : State) (v : Byte) (r : Reg) :
    (s.setY v).reg r = if r = .y then v else s.reg r := by
  cases r <;> rfl
@[simp] theorem State.setSp_reg (s : State) (v : Byte) (r : Reg) :
    (s.setSp v).reg r = if r = .sp then v else s.reg r := by
  cases r <;> rfl
@[simp] theorem State.setPc_reg (s : State) (v : Word) (r : Reg) : (s.setPc v).reg r = s.reg r := by
  cases r <;> rfl
@[simp] theorem State.setP_reg (s : State) (v : Byte) (r : Reg) : (s.setP v).reg r = s.reg r := by
  cases r <;> rfl
@[simp] theorem State.setStall_reg (s : State) (n : Nat) (r : Reg) : (s.setStall n).reg r = s.reg r := by
  cases r <;> rfl
@[simp] theorem State.setPending_reg (s : State) (k : Pending) (r : Reg) : (s.setPending k).reg r = s.reg r := by
  cases r <;> rfl
@[simp] theorem State.setHalted_reg (s : State) (h : Bool) (r : Reg) : (s.setHalted h).reg r = s.reg r := by
  cases r <;> rfl
@[simp] theorem State.setReturned_reg (s : State) (n : BitVec 64) (r : Reg) : (s.setReturned n).reg r = s.reg r := by
  cases r <;> rfl
@[simp] theorem State.setEvents_reg (s : State) (es : List BusEvent) (r : Reg) : (s.setEvents es).reg r = s.reg r := by
  cases r <;> rfl
@[simp] theorem State.charge_reg (s : State) (n : Nat) (r : Reg) : (s.charge n).reg r = s.reg r := by
  cases r <;> rfl
@[simp] theorem State.note_reg (s : State) (es : List BusEvent) (r : Reg) : (s.note es).reg r = s.reg r := by
  cases r <;> rfl
@[simp] theorem State.setFlag_reg (s : State) (f : Flag) (v : Bool) (r : Reg) : (s.setFlag f v).reg r = s.reg r := by
  cases r <;> rfl
@[simp] theorem State.setNZ_reg (s : State) (v : Byte) (r : Reg) : (s.setNZ v).reg r = s.reg r := by
  cases r <;> rfl

/-! ### Requests, the mapper's events and the devices' reactions -/

@[simp] theorem State.signalIrq_a (s : State) : (s.signalIrq).a = s.a := rfl
@[simp] theorem State.signalIrq_x (s : State) : (s.signalIrq).x = s.x := rfl
@[simp] theorem State.signalIrq_y (s : State) : (s.signalIrq).y = s.y := rfl
@[simp] theorem State.signalIrq_sp (s : State) : (s.signalIrq).sp = s.sp := rfl
@[simp] theorem State.signalIrq_pc (s : State) : (s.signalIrq).pc = s.pc := rfl
@[simp] theorem State.signalIrq_p (s : State) : (s.signalIrq).p = s.p := rfl
@[simp] theorem State.signalIrq_cycles (s : State) : (s.signalIrq).cycles = s.cycles := rfl
@[simp] theorem State.signalIrq_stall (s : State) : (s.signalIrq).stall = s.stall := rfl
@[simp] theorem State.signalIrq_pending (s : State) :
    (s.signalIrq).pending = requestIrq s.cfg.irqMaskPoint (s.flag .i) s.pending := rfl
@[simp] theorem State.signalIrq_halted (s : State) : (s.signalIrq).halted = s.halted := rfl
@[simp] theorem State.signalIrq_ram (s : State) : (s.signalIrq).ram = s.ram := rfl
@[simp] theorem State.signalIrq_cart (s : State) : (s.signalIrq).cart = s.cart := rfl
@[simp] theorem State.signalIrq_cfg (s : State) : (s.signalIrq).cfg = s.cfg := rfl
@[simp] theorem State.signalIrq_replies (s : State) : (s.signalIrq).replies = s.replies := rfl
@[simp] theorem State.signalIrq_returned (s : State) : (s.signalIrq).returned = s.returned := rfl
@[simp] theorem State.signalIrq_events (s : State) : (s.signalIrq).events = s.events := rfl
@[simp] theorem State.signalIrq_flag (s : State) (f : Flag) : (s.signalIrq).flag f = s.flag f := rfl
@[simp] theorem State.signalIrq_reg (s : State) (r : Reg) : (s.signalIrq).reg r = s.reg r := by cases r <;> rfl

@[simp] theorem State.signalNmi_a (s : State) : (s.signalNmi).a = s.a := rfl
@[simp] theorem State.signalNmi_x (s : State) : (s.signalNmi).x = s.x := rfl
@[simp] theorem State.signalNmi_y (s : State) : (s.signalNmi).y = s.y := rfl
@[simp] theorem State.signalNmi_sp (s : State) : (s.signalNmi).sp = s.sp := rfl
@[simp] theorem State.signalNmi_pc (s : State) : (s.signalNmi).pc = s.pc := rfl
@[simp] theorem State.signalNmi_p (s : State) : (s.signalNmi).p = s.p := rfl
@[simp] theorem State.signalNmi_cycles (s : State) : (s.signalNmi).cycles = s.cycles := rfl
@[simp] theorem State.signalNmi_stall (s : State) : (s.signalNmi).stall = s.stall := rfl
@[simp] theorem State.signalNmi_pending (s : State) : (s.signalNmi).pending = .nmi := rfl
@[simp] theorem State.signalNmi_halted (s : State) : (s.signalNmi).halted = s.halted := rfl
@[simp] theorem State.signalNmi_ram (s : State) : (s.signalNmi).ram = s.ram := rfl
@[simp] theorem State.signalNmi_cart (s : State) : (s.signalNmi).cart = s.cart := rfl
@[simp] theorem State.signalNmi_cfg (s : State) : (s.signalNmi).cfg = s.cfg := rfl
@[simp] theorem State.signalNmi_replies (s : State) : (s.signalNmi).replies = s.replies := rfl
@[simp] theorem State.signalNmi_returned (s : State) : (s.signalNmi).returned = s.returned := rfl
@[simp] theorem State.signalNmi_events (s : State) : (s.signalNmi).events = s.events := rfl
@[simp] theorem State.signalNmi_flag (s : State) (f : Flag) : (s.signalNmi).flag f = s.flag f := rfl
@[simp] theorem State.signalNmi_reg (s : State) (r : Reg) : (s.signalNmi).reg r = s.reg r := by cases r <;> rfl

@[simp] theorem State.cancelIrq_a (s : State) : (s.cancelIrq).a = s.a := rfl
@[simp] theorem State.cancelIrq_x (s : State) : (s.cancelIrq).x = s.x := rfl
@[simp] theorem State.cancelIrq_y (s : State) : (s.cancelIrq).y = s.y := rfl
@[simp] theorem State.cancelIrq_sp (s : State) : (s.cancelIrq).sp = s.sp := rfl
@[simp] theorem State.cancelIrq_pc (s : State) : (s.cancelIrq).pc = s.pc := rfl
@[simp] theorem State.cancelIrq_p (s : State) : (s.cancelIrq).p = s.p := rfl
@[simp] theorem State.cancelIrq_cycles (s : State) : (s.cancelIrq).cycles = s.cycles := rfl
@[simp] theorem State.cancelIrq_stall (s : State) : (s.cancelIrq).stall = s.stall := rfl
@[simp] theorem State.cancelIrq_pending (s : State) : (s.cancelIrq).pending = acknowledgeIrq s.pending := rfl
@[simp] theorem State.cancelIrq_halted (s : State) : (s.cancelIrq).halted = s.halted := rfl
@[simp] theorem State.cancelIrq_ram (s : State) : (s.cancelIrq).ram = s.ram := rfl
@[simp] theorem State.cancelIrq_cart (s : State) : (s.cancelIrq).cart = s.cart := rfl
@[simp] theorem State.cancelIrq_cfg (s : State) : (s.cancelIrq).cfg = s.cfg := rfl
@[simp] theorem State.cancelIrq_replies (s : State) : (s.cancelIrq).replies = s.replies := rfl
@[simp] theorem State.cancelIrq_returned (s : State) : (s.cancelIrq).returned = s.returned := rfl
@[simp] theorem State.cancelIrq_events (s : State) : (s.cancelIrq).events = s.events := rfl
@[simp] theorem State.cancelIrq_flag (s : State) (f : Flag) : (s.cancelIrq).flag f = s.flag f := rfl
@[simp] theorem State.cancelIrq_reg (s : State) (r : Reg) : (s.cancelIrq).reg r = s.reg r := by cases r <;> rfl

@[simp] theorem State.addStall_a (s : State) (n : Nat) : (s.addStall n).a = s.a := rfl
@[simp] theorem State.addStall_x (s : State) (n : Nat) : (s.addStall n).x = s.x := rfl
@[simp] theorem State.addStall_y (s : State) (n : Nat) : (s.addStall n).y = s.y := rfl
@[simp] theorem State.addStall_sp (s : State) (n : Nat) : (s.addStall n).sp = s.sp := rfl
@[simp] theorem State.addStall_pc (s : State) (n : Nat) : (s.addStall n).pc = s.pc := rfl
@[simp] theorem State.addStall_p (s : State) (n : Nat) : (s.addStall n).p = s.p := rfl
@[simp] theorem State.addStall_cycles (s : State) (n : Nat) : (s.addStall n).cycles = s.cycles := rfl
@[simp] theorem State.addStall_stall (s : State) (n : Nat) : (s.addStall n).stall = s.stall + n := rfl
@[simp] theorem State.addStall_pending (s : State) (n : Nat) : (s.addStall n).pending = s.pending := rfl
@[simp] theorem State.addStall_halted (s : State) (n : Nat) : (s.addStall n).halted = s.halted := rfl
@[simp] theorem State.addStall_ram (s : State) (n : Nat) : (s.addStall n).ram = s.ram := rfl
@[simp] theorem State.addStall_cart (s : State) (n : Nat) : (s.addStall n).cart = s.cart := rfl
@[simp] theorem State.addStall_cfg (s : State) (n : Nat) : (s.addStall n).cfg = s.cfg := rfl
@[simp] theorem State.addStall_replies (s : State) (n : Nat) : (s.addStall n).replies = s.replies := rfl
@[simp] theorem State.addStall_returned (s : State) (n : Nat) : (s.addStall n).returned = s.returned := rfl
@[simp] theorem State.addStall_events (s : State) (n : Nat) : (s.addStall n).events = s.events := rfl
@[simp] theorem State.addStall_flag (s : State) (n : Nat) (f : Flag) : (s.addStall n).flag f = s.flag f := rfl
@[simp] theorem State.addStall_reg (s : State) (n : Nat) (r : Reg) : (s.addStall n).reg r = s.reg r := by cases r <;> rfl

@[simp] theorem State.receiveAll_a (s : State) (es : List BusEvent) : (s.receiveAll es).a = s.a := rfl
@[simp] theorem State.receiveAll_x (s : State) (es : List BusEvent) : (s.receiveAll es).x = s.x := rfl
@[simp] theorem State.receiveAll_y (s : State) (es : List BusEvent) : (s.receiveAll es).y = s.y := rfl
@[simp] theorem State.receiveAll_sp (s : State) (es : List BusEvent) : (s.receiveAll es).sp = s.sp := rfl
@[simp] theorem State.receiveAll_pc (s : State) (es : List BusEvent) : (s.receiveAll es).pc = s.pc := rfl
@[simp] theorem State.receiveAll_p (s : State) (es : List BusEvent) : (s.receiveAll es).p = s.p := rfl
@[simp] theorem State.receiveAll_cycles (s : State) (es : List BusEvent) : (s.receiveAll es).cycles = s.cycles := rfl
@[simp] theorem State.receiveAll_stall (s : State) (es : List BusEvent) : (s.receiveAll es).stall = s.stall := rfl
@[simp] theorem State.receiveAll_halted (s : State) (es : List BusEvent) : (s.receiveAll es).halted = s.halted := rfl
@[simp] theorem State.receiveAll_ram (s : State) (es : List BusEvent) : (s.receiveAll es).ram = s.ram := rfl
@[simp] theorem State.receiveAll_cart (s : State) (es : List BusEvent) : (s.receiveAll es).cart = s.cart := rfl
@[simp] theorem State.receiveAll_cfg (s : State) (es : List BusEvent) : (s.receiveAll es).cfg = s.cfg := rfl
@[simp] theorem State.receiveAll_replies (s : State) (es : List BusEvent) : (s.receiveAll es).replies = s.replies := rfl
@[simp] theorem State.receiveAll_returned (s : State) (es : List BusEvent) : (s.receiveAll es).returned = s.returned := rfl
@[simp] theorem State.receiveAll_events (s : State) (es : List BusEvent) : (s.receiveAll es).events = s.events ++ es := rfl
@[simp] theorem State.receiveAll_flag (s : State) (es : List BusEvent) (f : Flag) :
    (s.receiveAll es).flag f = s.flag f := rfl
@[simp] theorem State.receiveAll_reg (s : State) (es : List BusEvent) (r : Reg) :
    (s.receiveAll es).reg r = s.reg r := by cases r <;> rfl

theorem State.receiveAll_pending (s : State) (es : List BusEvent) :
    (s.receiveAll es).pending = s.eventsPending es := rfl

/-- Events without a request can only cancel a pending maskable request. -/
theorem foldl_pendingAfterEvent (point : IrqMaskPoint) (masked : Bool) (k : Pending) (es : List BusEvent) (h : .irq ∉ es) :
    es.foldl (pendingAfterEvent point masked) k = if .irqAck ∈ es then acknowledgeIrq k else k := by
  induction es generalizing k with
  | nil => simp
  | cons e es ih =>
    rw [List.foldl_cons, ih _ fun he => h (List.mem_cons_of_mem _ he)]
    have he : e ≠ .irq := fun he => h (he ▸ List.mem_cons_self)
    cases e with
    | irq => exact absurd rfl he
    | irqAck => cases k <;> simp [pendingAfterEvent, acknowledgeIrq]
    | _ => simp [pendingAfterEvent]

/-- Calls that signal no NMI and no IRQ leave an absent request absent; an NMI is left by every call. -/
theorem foldl_pendingAfterCall_nmi (point : IrqMaskPoint) (masked : Bool) (calls : List DeviceCall) :
    calls.foldl (pendingAfterCall point masked) .nmi = .nmi := by
  induction calls with
  | nil => rfl
  | cons c cs ih =>
    rw [List.foldl_cons]
    cases c <;> cases point <;> simpa [pendingAfterCall, requestIrq, acknowledgeIrq] using ih

/-- The stall counter grows by the sum of the stalls added. -/
theorem foldl_stallAfterCall_le (n : Nat) (calls : List DeviceCall) : n ≤ calls.foldl stallAfterCall n := by
  induction calls generalizing n with
  | nil => exact Nat.le_refl _
  | cons c cs ih => exact Nat.le_trans (by cases c <;> simp [stallAfterCall]) (ih _)

@[simp] theorem State.access_a (s : State) (e : BusEvent) : (s.access e).a = s.a := rfl
@[simp] theorem State.access_x (s : State) (e : BusEvent) : (s.access e).x = s.x := rfl
@[simp] theorem State.access_y (s : State) (e : BusEvent) : (s.access e).y = s.y := rfl
@[simp] theorem State.access_sp (s : State) (e : BusEvent) : (s.access e).sp = s.sp := rfl
@[simp] theorem State.access_pc (s : State) (e : BusEvent) : (s.access e).pc = s.pc := rfl
@[simp] theorem State.access_p (s : State) (e : BusEvent) : (s.access e).p = s.p := rfl
@[simp] theorem State.access_cycles (s : State) (e : BusEvent) : (s.access e).cycles = s.cycles := rfl
@[simp] theorem State.access_stall (s : State) (e : BusEvent) : (s.access e).stall = s.reactStall := rfl
@[simp] theorem State.access_pending (s : State) (e : BusEvent) : (s.access e).pending = s.reactPending s.pending := rfl
@[simp] theorem State.access_halted (s : State) (e : BusEvent) : (s.access e).halted = s.halted := rfl
@[simp] theorem State.access_ram (s : State) (e : BusEvent) : (s.access e).ram = s.ram := rfl
@[simp] theorem State.access_cart (s : State) (e : BusEvent) : (s.access e).cart = s.cart := rfl
@[simp] theorem State.access_cfg (s : State) (e : BusEvent) : (s.access e).cfg = s.cfg := rfl
@[simp] theorem State.access_replies (s : State) (e : BusEvent) : (s.access e).replies = s.replies.tail := rfl
@[simp] theorem State.access_returned (s : State) (e : BusEvent) : (s.access e).returned = s.returned := rfl
@[simp] theorem State.access_events (s : State) (e : BusEvent) : (s.access e).events = s.events ++ [e] := rfl
@[simp] theorem State.access_flag (s : State) (e : BusEvent) (f : Flag) : (s.access e).flag f = s.flag f := rfl
@[simp] theorem State.access_reg (s : State) (e : BusEvent) (r : Reg) : (s.access e).reg r = s.reg r := by cases r <;> rfl

@[simp] theorem State.busRead_a (s : State) (a : Word) : (s.busRead a).a = s.a := rfl
@[simp] theorem State.busRead_x (s : State) (a : Word) : (s.busRead a).x = s.x := rfl
@[simp] theorem State.busRead_y (s : State) (a : Word) : (s.busRead a).y = s.y := rfl
@[simp] theorem State.busRead_sp (s : State) (a : Word) : (s.busRead a).sp = s.sp := rfl
@[simp] theorem State.busRead_pc (s : State) (a : Word) : (s.busRead a).pc = s.pc := rfl
@[simp] theorem State.busRead_p (s : State) (a : Word) : (s.busRead a).p = s.p := rfl
@[simp] theorem State.busRead_cycles (s : State) (a : Word) : (s.busRead a).cycles = s.cycles := rfl
@[simp] theorem State.busRead_stall (s : State) (a : Word) : (s.busRead a).stall = s.reactStall := rfl
@[simp] theorem State.busRead_pending (s : State) (a : Word) : (s.busRead a).pending = s.reactPending s.pending := rfl
@[simp] theorem State.busRead_halted (s : State) (a : Word) : (s.busRead a).halted = s.halted := rfl
@[simp] theorem State.busRead_ram (s : State) (a : Word) : (s.busRead a).ram = s.ram := rfl
@[simp] theorem State.busRead_cart (s : State) (a : Word) : (s.busRead a).cart = s.cart := rfl
@[simp] theorem State.busRead_cfg (s : State) (a : Word) : (s.busRead a).cfg = s.cfg := rfl
@[simp] theorem State.busRead_replies (s : State) (a : Word) : (s.busRead a).replies = s.replies.tail := rfl
@[simp] theorem State.busRead_returned (s : State) (a : Word) : (s.busRead a).returned = s.returned := rfl
@[simp] theorem State.busRead_events (s : State) (a : Word) : (s.busRead a).events = s.events ++ [.read a (s.peek a)] := rfl
@[simp] theorem State.busRead_flag (s : State) (a : Word) (f : Flag) : (s.busRead a).flag f = s.flag f := rfl
@[simp] theorem State.busRead_reg (s : State) (a : Word) (r : Reg) : (s.busRead a).reg r = s.reg r := by cases r <;> rfl

@[simp] theorem State.busReads_nil (s : State) : s.busReads [] = s := rfl

@[simp] theorem State.busReads_cons (s : State) (a : Word) (as : List Word) :
    s.busReads (a :: as) = (s.busRead a).busReads as := rfl

@[simp] theorem State.busReads_a (s : State) (as : List Word) : (s.busReads as).a = s.a := by
  induction as generalizing s with
  | nil => rfl
  | cons a as ih => exact ih _
@[simp] theorem State.busReads_x (s : State) (as : List Word) : (s.busReads as).x = s.x := by
  induction as generalizing s with
  | nil => rfl
  | cons a as ih => exact ih _
@[simp] theorem State.busReads_y (s : State) (as : List Word) : (s.busReads as).y = s.y := by
  induction as generalizing s with
  | nil => rfl
  | cons a as ih => exact ih _
@[simp] theorem State.busReads_sp (s : State) (as : List Word) : (s.busReads as).sp = s.sp := by
  induction as generalizing s with
  | nil => rfl
  | cons a as ih => exact ih _
@[simp] theorem State.busReads_pc (s : State) (as : List Word) : (s.busReads as).pc = s.pc := by
  induction as generalizing s with
  | nil => rfl
  | cons a as ih => exact ih _
@[simp] theorem State.busReads_p (s : State) (as : List Word) : (s.busReads as).p = s.p := by
  induction as generalizing s with
  | nil => rfl
  | cons a as ih => exact ih _
@[simp] theorem State.busReads_cycles (s : State) (as : List Word) : (s.busReads as).cycles = s.cycles := by
  induction as generalizing s with
  | nil => rfl
  | cons a as ih => exact ih _
@[simp] theorem State.busReads_halted (s : State) (as : List Word) : (s.busReads as).halted = s.halted := by
  induction as generalizing s with
  | nil => rfl
  | cons a as ih => exact ih _
@[simp] theorem State.busReads_ram (s : State) (as : List Word) : (s.busReads as).ram = s.ram := by
  induction as generalizing s with
  | nil => rfl
  | cons a as ih => exact ih _
@[simp] theorem State.busReads_cart (s : State) (as : List Word) : (s.busReads as).cart = s.cart := by
  induction as generalizing s with
  | nil => rfl
  | cons a as ih => exact ih _
@[simp] theorem State.busReads_cfg (s : State) (as : List Word) : (s.busReads as).cfg = s.cfg := by
  induction as generalizing s with
  | nil => rfl
  | cons a as ih => exact ih _
@[simp] theorem State.busReads_returned (s : State) (as : List Word) : (s.busReads as).returned = s.returned := by
  induction as generalizing s with
  | nil => rfl
  | cons a as ih => exact ih _
@[simp] theorem State.busReads_flag (s : State) (as : List Word) (f : Flag) : (s.busReads as).flag f = s.flag f := by
  simp [State.flag]
@[simp] theorem State.busReads_reg (s : State) (as : List Word) (r : Reg) : (s.busReads as).reg r = s.reg r := by
  cases r <;> simp [State.reg]

@[simp] theorem State.access_route (s : State) (e : BusEvent) (a : Word) : (s.access e).route a = s.route a := rfl
@[simp] theorem State.busRead_route (s : State) (b a : Word) : (s.busRead b).route a = s.route a := rfl
@[simp] theorem State.busReads_route (s : State) (as : List Word) (a : Word) : (s.busReads as).route a = s.route a :=
  State.route_congr (by simp) (by simp) a

/-- No access changes what a byte of memory reads as, save a write to it. -/
theorem State.access_peek (s : State) (e : BusEvent) (a : Word) (h : s.route a ≠ .device) :
    (s.access e).peek a = s.peek a := State.peek_memory (s := s) (t := s.access e) rfl rfl rfl a h

theorem State.busRead_peek (s : State) (b a : Word) (h : s.route a ≠ .device) : (s.busRead b).peek a = s.peek a :=
  State.peek_memory (s := s) (t := s.busRead b) rfl rfl rfl a h

theorem State.busReads_peek (s : State) (as : List Word) (a : Word) (h : s.route a ≠ .device) :
    (s.busReads as).peek a = s.peek a := State.peek_memory (by simp) (by simp) (by simp) a h

/-- What answers an address says what a read of it returns. -/
theorem State.peek_ram {s : State} {a : Word} {k : Nat} (h : s.route a = .ram k) : s.peek a = s.ram.read k := by
  unfold State.peek
  rw [h]

theorem State.peek_mapper {s : State} {a : Word} {c : Cartridge} (h : s.route a = .mapper c) : s.peek a = c.read a := by
  unfold State.peek
  rw [h]

theorem State.peek_unclaimed {s : State} {a : Word} (h : s.route a = .unclaimed) : s.peek a = hi a := by
  unfold State.peek
  rw [h]

/-- A read answers the reply's byte in a device window. -/
theorem State.peek_device {s : State} {a : Word} {r : Reply} {rs : List Reply} (h : s.route a = .device)
    (hr : s.replies = r :: rs) : s.peek a = r.value := by
  unfold State.peek State.nextDeviceByte
  rw [h, hr]

/-! ### Writing the bus -/

/-- The mapper's reaction to a write requests no interrupt: it can only acknowledge one. -/
theorem Cartridge.write_no_irq (cfg : Config) (c : Cartridge) (a : Word) (v : Byte) : .irq ∉ (c.write cfg a v).2 := by
  have hb : ∀ c d : Cartridge, BusEvent.irq ∉ notifications c d := by
    intro c d h
    unfold notifications bankSwitches at h
    rcases List.mem_append.mp h with h | h
    · split at h <;> simp at h
    · simp at h
  have hw : BusEvent.irq ∉ (c.boardWrite a v).2 := by
    unfold Cartridge.boardWrite Mmc3.write
    (repeat' split) <;> simp
  have hc : ∀ d : Cartridge, BusEvent.irq ∉ (d.componentWrite cfg a v).2 := by
    intro d
    unfold Cartridge.componentWrite CycleIrq.operate
    (repeat' split) <;> simp_all
  unfold Cartridge.write
  split
  · simp
  split
  · simp
  split
  · simp
  · unfold Cartridge.registerWrite
    simp only [List.mem_append, not_or]
    exact ⟨⟨hw, hc _⟩, hb _ _⟩

theorem State.mapperEvents_no_irq (s : State) (a : Word) (v : Byte) : .irq ∉ s.mapperEvents a v := by
  unfold State.mapperEvents
  split <;> simp [Cartridge.write_no_irq]

@[simp] theorem State.busWrite_a (s : State) (a : Word) (v : Byte) : (s.busWrite a v).a = s.a := rfl
@[simp] theorem State.busWrite_x (s : State) (a : Word) (v : Byte) : (s.busWrite a v).x = s.x := rfl
@[simp] theorem State.busWrite_y (s : State) (a : Word) (v : Byte) : (s.busWrite a v).y = s.y := rfl
@[simp] theorem State.busWrite_sp (s : State) (a : Word) (v : Byte) : (s.busWrite a v).sp = s.sp := rfl
@[simp] theorem State.busWrite_pc (s : State) (a : Word) (v : Byte) : (s.busWrite a v).pc = s.pc := rfl
@[simp] theorem State.busWrite_p (s : State) (a : Word) (v : Byte) : (s.busWrite a v).p = s.p := rfl
@[simp] theorem State.busWrite_cycles (s : State) (a : Word) (v : Byte) : (s.busWrite a v).cycles = s.cycles := rfl
@[simp] theorem State.busWrite_stall (s : State) (a : Word) (v : Byte) : (s.busWrite a v).stall = s.reactStall := rfl
@[simp] theorem State.busWrite_halted (s : State) (a : Word) (v : Byte) : (s.busWrite a v).halted = s.halted := rfl
@[simp] theorem State.busWrite_ram (s : State) (a : Word) (v : Byte) : (s.busWrite a v).ram = s.ramAfter a v := rfl
@[simp] theorem State.busWrite_cart (s : State) (a : Word) (v : Byte) : (s.busWrite a v).cart = s.cartAfter a v := rfl
@[simp] theorem State.busWrite_cfg (s : State) (a : Word) (v : Byte) : (s.busWrite a v).cfg = s.cfg := rfl
@[simp] theorem State.busWrite_replies (s : State) (a : Word) (v : Byte) : (s.busWrite a v).replies = s.replies.tail := rfl
@[simp] theorem State.busWrite_returned (s : State) (a : Word) (v : Byte) : (s.busWrite a v).returned = s.returned := rfl
@[simp] theorem State.busWrite_flag (s : State) (a : Word) (v : Byte) (f : Flag) : (s.busWrite a v).flag f = s.flag f := rfl
@[simp] theorem State.busWrite_reg (s : State) (a : Word) (v : Byte) (r : Reg) :
    (s.busWrite a v).reg r = s.reg r := by cases r <;> rfl

theorem State.busWrite_events (s : State) (a : Word) (v : Byte) :
    (s.busWrite a v).events = s.events ++ .write a v :: s.mapperEvents a v := rfl

/-- The pending request after a write: the mapper can acknowledge, then the devices call. -/
theorem State.busWrite_pending (s : State) (a : Word) (v : Byte) :
    (s.busWrite a v).pending =
      s.reactPending (if .irqAck ∈ s.mapperEvents a v then acknowledgeIrq s.pending else s.pending) := by
  show s.reactPending (s.eventsPending _) = _
  unfold State.eventsPending
  rw [foldl_pendingAfterEvent _ _ _ _ (s.mapperEvents_no_irq a v)]

/-- The route of an address is what the windows of the bus make it; a cartridge in the place of another answers where the
other did. -/
theorem routeIn_some (bus : List BusWindow) (c d : Cartridge) (a : Word) :
    routeIn bus (some d) a = match routeIn bus (some c) a with
      | .mapper _ => .mapper d
      | r => r := by
  induction bus with
  | nil => rfl
  | cons w ws ih =>
    unfold routeIn
    split
    · cases w.target <;> simp
    · exact ih

theorem routeIn_mapper {bus : List BusWindow} {cart : Option Cartridge} {a : Word} {c : Cartridge}
    (h : routeIn bus cart a = .mapper c) : cart = some c := by
  induction bus with
  | nil => simp [routeIn] at h
  | cons w ws ih =>
    unfold routeIn at h
    (repeat' split at h) <;> simp_all

theorem State.route_mapper {s : State} {a : Word} {c : Cartridge} (h : s.route a = .mapper c) : s.cart = some c :=
  routeIn_mapper h

/-- A write moves no window of the bus: an address keeps its kind of target, and the mapper's new cartridge takes the place of
the old. -/
theorem State.busWrite_route (s : State) (a b : Word) (v : Byte) :
    (s.busWrite a v).route b = match s.route b with
      | .mapper c => .mapper ((s.cartAfter a v).getD c)
      | r => r := by
  show routeIn s.cfg.bus (s.cartAfter a v) b = _
  unfold State.cartAfter
  cases ha : s.route a with
  | mapper c =>
    have hc := State.route_mapper ha
    show routeIn _ (some _) _ = _
    rw [routeIn_some _ c]
    unfold State.route
    rw [hc]
    split <;> simp_all
  | _ =>
    show s.route b = _
    cases hb : s.route b <;> simp
    simp [State.route_mapper hb]

theorem State.busWrite_route_device (s : State) (a b : Word) (v : Byte) :
    (s.busWrite a v).route b = .device ↔ s.route b = .device := by
  rw [State.busWrite_route]
  split <;> simp_all

/-- A write to save-RAM is seen at its own address only. -/
theorem Cartridge.read_write_saveRam (cfg : Config) (c : Cartridge) (a b : Word) (v : Byte)
    (ha : 0x6000 ≤ a.toNat ∧ a.toNat < 0x8000) : (c.write cfg a v).1.read b = if b = a then v else c.read b := by
  have h1 : ¬ a.toNat < 0x2000 := by omega
  have h2 : ¬ a.toNat < 0x6000 := by omega
  unfold Cartridge.write
  rw [if_neg h1, if_neg h2, if_pos ha.2]
  unfold Cartridge.read
  by_cases hb : b = a
  · subst hb
    simp [h1, h2, ha.2]
  · have hne : b.toNat ≠ a.toNat := fun h => hb (BitVec.eq_of_toNat_eq h)
    by_cases b1 : b.toNat < 0x2000
    · simp [b1, hb, Cartridge.chrOffset]
    · by_cases b2 : b.toNat < 0x6000
      · simp [b1, b2, hb]
      · by_cases b3 : b.toNat < 0x8000
        · have : b.toNat - 0x6000 ≠ a.toNat - 0x6000 := by omega
          simp [b1, b2, b3, hb, this]
        · simp [b1, b2, b3, hb, Cartridge.prgOffset]

/-- What a byte outside the device windows reads as after a write. -/
theorem State.busWrite_peek (s : State) (a b : Word) (v : Byte) (h : s.route b ≠ .device) :
    (s.busWrite a v).peek b = match s.route b with
      | .ram j => (s.ramAfter a v).read j
      | .mapper c => ((s.cartAfter a v).getD c).read b
      | _ => hi b := by
  unfold State.peek
  rw [State.busWrite_route]
  cases hb : s.route b <;> simp_all

/-- The bus write stores exactly the byte it is given at exactly the address it is given. -/
theorem State.busWrite_stored (s : State) (a : Word) (v : Byte) : Stored a v s (s.busWrite a v) := by
  have hp := fun b hb => s.busWrite_peek a b v hb
  refine ⟨rfl, ?_⟩
  cases h : s.route a with
  | ram k =>
    have hr : s.ramAfter a v = s.ram.write k v := by simp [State.ramAfter, h]
    have hc : s.cartAfter a v = s.cart := by simp [State.cartAfter, h]
    refine ⟨by simp [hr], by simp [hc], fun b hb => ?_⟩
    rw [hp b hb, hr, hc]
    unfold State.peek
    cases hb' : s.route b with
    | ram j => by_cases hj : j = k <;> simp [hj]
    | mapper c => simp [State.route_mapper hb']
    | device => exact absurd hb' hb
    | unclaimed => simp
  | mapper c =>
    have hr : s.ramAfter a v = s.ram := by simp [State.ramAfter, h]
    have hc : s.cartAfter a v = some (c.write s.cfg a v).1 := by simp [State.cartAfter, h]
    have hcart := State.route_mapper h
    refine ⟨by simp [hr], by simp [hc], fun b hb hb' => ?_, fun ha b hb => ?_, fun ha b hb => ?_⟩
    · rw [hp b hb, hr, hc]
      unfold State.peek
      cases hq : s.route b with
      | mapper d =>
        have := State.route_mapper hq
        simp_all
      | device => exact absurd hq hb
      | _ => rfl
    · rw [hp b hb, hr, hc]
      unfold State.peek
      cases hq : s.route b with
      | mapper d =>
        have hd := State.route_mapper hq
        rw [hcart] at hd
        cases hd
        simpa using Cartridge.read_write_saveRam s.cfg c a b v ha
      | device => exact absurd hq hb
      | _ =>
        have : b ≠ a := fun e => by rw [e, h] at hq; cases hq
        simp [this]
    · have hw : (c.write s.cfg a v).1 = c := by
        unfold Cartridge.write
        rw [if_neg (by omega), if_pos ha.2]
      rw [hp b hb, hr, hc, hw]
      unfold State.peek
      cases hq : s.route b with
      | mapper d =>
        have hd := State.route_mapper hq
        rw [hcart] at hd
        cases hd
        rfl
      | device => exact absurd hq hb
      | _ => rfl
  | device =>
    have hr : s.ramAfter a v = s.ram := by simp [State.ramAfter, h]
    have hc : s.cartAfter a v = s.cart := by simp [State.cartAfter, h]
    exact ⟨hr, hc, rfl, fun b hb => State.peek_memory (t := s.busWrite a v) hr hc rfl b hb⟩
  | unclaimed =>
    have hr : s.ramAfter a v = s.ram := by simp [State.ramAfter, h]
    have hc : s.cartAfter a v = s.cart := by simp [State.cartAfter, h]
    exact ⟨hr, hc, rfl, fun b hb => State.peek_memory (t := s.busWrite a v) hr hc rfl b hb⟩

/-! ### Relations between states, across what they do not speak of -/

theorem StorageKept.of_eq {s t : State} (hr : t.ram = s.ram) (hc : t.cart = s.cart) (hg : t.cfg = s.cfg) : StorageKept s t :=
  ⟨hr, hc, hg, State.peek_memory hr hc hg⟩

theorem StorageKept.refl (s : State) : StorageKept s s := .of_eq rfl rfl rfl

theorem StorageKept.symm {s t : State} (h : StorageKept s t) : StorageKept t s :=
  .of_eq h.ram.symm h.cart.symm h.cfg.symm

theorem StorageKept.trans {s t u : State} (h : StorageKept s t) (k : StorageKept t u) : StorageKept s u :=
  .of_eq (k.ram.trans h.ram) (k.cart.trans h.cart) (k.cfg.trans h.cfg)

theorem StorageKept.route {s t : State} (h : StorageKept s t) (a : Word) : t.route a = s.route a :=
  State.route_congr h.cart h.cfg a

theorem State.busReads_kept (s : State) (as : List Word) : StorageKept s (s.busReads as) :=
  .of_eq (by simp) (by simp) (by simp)

theorem State.access_kept (s : State) (e : BusEvent) : StorageKept s (s.access e) := .of_eq rfl rfl rfl

/-- What is stored does not depend on anything but the storage. -/
theorem Stored.congr {a : Word} {v : Byte} {s t s' t' : State} (h : Stored a v s t) (hs : StorageKept s s')
    (ht : StorageKept t t') : Stored a v s' t' := by
  obtain ⟨hg, h⟩ := h
  refine ⟨by rw [ht.cfg, hg, hs.cfg], ?_⟩
  have key : ∀ b, s'.route b ≠ .device → s.peek b = s'.peek b := fun b hb => hs.symm.bytes b hb
  have hq := hs.route
  have kt : ∀ b, t.route b ≠ .device → t'.peek b = t.peek b := ht.bytes
  rw [hq]
  cases hr : s.route a with
  | ram k =>
    rw [hr] at h
    obtain ⟨h1, h2, h3⟩ := h
    have hrt : ∀ b, t.route b = s.route b := State.route_congr h2 hg
    refine ⟨by rw [ht.ram, h1, hs.ram], by rw [ht.cart, h2, hs.cart], fun b hb => ?_⟩
    rw [kt b (by rw [hrt, ← hq]; exact hb), h3 b (by rw [← hq]; exact hb), hq, key b hb]
  | mapper c =>
    rw [hr] at h
    obtain ⟨h1, h2, h3, h4, h5⟩ := h
    have hd : ∀ b, s'.route b ≠ .device → t.route b ≠ .device := by
      intro b hb
      rw [hq] at hb
      unfold State.route at hb ⊢
      rw [h2, hg, routeIn_some _ c]
      rw [State.route_mapper hr] at hb
      split <;> simp_all
    have hd' : ∀ b, s'.route b ≠ .device → s.route b ≠ .device := fun b hb => by rw [← hq]; exact hb
    simp only [hs.cfg]
    refine ⟨by rw [ht.ram, h1, hs.ram], by rw [ht.cart, h2], fun b hb hb' => ?_, fun ha b hb => ?_, fun ha b hb => ?_⟩
    · rw [hq] at hb'
      rw [kt b (hd b hb), h3 b (hd' b hb) hb', key b hb]
    · rw [kt b (hd b hb), h4 ha b (hd' b hb), key b hb]
    · rw [kt b (hd b hb), h5 ha b (hd' b hb), key b hb]
  | device => rw [hr] at h; exact (hs.symm.trans h).trans ht
  | unclaimed => rw [hr] at h; exact (hs.symm.trans h).trans ht

theorem StoredAll.congr {ws : List (Word × Byte)} {s t s' t' : State} (h : StoredAll ws s t) (hs : StorageKept s s')
    (ht : StorageKept t t') : StoredAll ws s' t' := by
  induction ws generalizing s s' with
  | nil => exact (hs.symm.trans h).trans ht
  | cons w ws ih =>
    obtain ⟨m, hm, hrest⟩ := h
    exact ⟨m, hm.congr hs (.refl m), ih hrest (.refl m)⟩

/-- One stored byte is a list of one. -/
theorem StoredAll.one {a : Word} {v : Byte} {s t : State} (h : Stored a v s t) : StoredAll [(a, v)] s t :=
  ⟨t, h, StorageKept.refl t⟩

/-- Two lists of stores in a row are one. -/
theorem StoredAll.append {vs ws : List (Word × Byte)} {s m t : State} (h : StoredAll vs s m) (h' : StoredAll ws m t) :
    StoredAll (vs ++ ws) s t := by
  induction vs generalizing s with
  | nil => exact h'.congr h.symm (.refl t)
  | cons w vs ih =>
    obtain ⟨k, hk, hrest⟩ := h
    exact ⟨k, hk, ih hrest⟩

/-- Writes in a row store exactly their bytes. -/
theorem State.busWrites_stored (s : State) (ws : List (Word × Byte)) : StoredAll ws s (s.busWrites ws) := by
  induction ws generalizing s with
  | nil => exact .refl s
  | cons w ws ih => exact ⟨_, s.busWrite_stored w.1 w.2, ih _⟩

/-- The two states look alike from the bus: same storage, same request, stall, replies and transactions, same I. Registers, PC,
cycle counter and the other flags may differ. -/
structure BusAlike (s t : State) : Prop where
  ram     : t.ram = s.ram
  cart    : t.cart = s.cart
  cfg     : t.cfg = s.cfg
  replies : t.replies = s.replies
  pending : t.pending = s.pending
  stall   : t.stall = s.stall
  events  : t.events = s.events
  masked  : t.flag .i = s.flag .i

theorem BusAlike.refl (s : State) : BusAlike s s := ⟨rfl, rfl, rfl, rfl, rfl, rfl, rfl, rfl⟩

theorem BusAlike.symm {s t : State} (h : BusAlike s t) : BusAlike t s :=
  ⟨h.1.symm, h.2.symm, h.3.symm, h.4.symm, h.5.symm, h.6.symm, h.7.symm, h.8.symm⟩

theorem BusAlike.trans {s t u : State} (h : BusAlike s t) (k : BusAlike t u) : BusAlike s u :=
  ⟨k.1.trans h.1, k.2.trans h.2, k.3.trans h.3, k.4.trans h.4, k.5.trans h.5, k.6.trans h.6, k.7.trans h.7,
    k.8.trans h.8⟩

theorem BusAlike.kept {s t : State} (h : BusAlike s t) : StorageKept s t := .of_eq h.ram h.cart h.cfg

theorem BusAlike.outside {s t : State} (h : BusAlike s t) : OutsideAs s t := ⟨h.events, h.pending, h.stall, h.replies⟩

theorem BusAlike.route {s t : State} (h : BusAlike s t) (a : Word) : t.route a = s.route a :=
  State.route_congr h.cart h.cfg a

/-- Alike states read alike, also in the device windows. -/
theorem BusAlike.peek {s t : State} (h : BusAlike s t) (a : Word) : t.peek a = s.peek a :=
  State.peek_congr h.ram h.cart h.cfg h.replies a

theorem BusAlike.reactPending {s t : State} (h : BusAlike s t) (k : Pending) : t.reactPending k = s.reactPending k := by
  unfold State.reactPending State.nextCalls
  rw [h.replies, h.cfg, h.masked]

theorem BusAlike.reactStall {s t : State} (h : BusAlike s t) : t.reactStall = s.reactStall := by
  unfold State.reactStall State.nextCalls
  rw [h.replies, h.stall]

theorem BusAlike.eventsPending {s t : State} (h : BusAlike s t) (es : List BusEvent) :
    t.eventsPending es = s.eventsPending es := by
  unfold State.eventsPending
  rw [h.cfg, h.masked, h.pending]

theorem BusAlike.note {s t : State} (h : BusAlike s t) (es : List BusEvent) : BusAlike (s.note es) (t.note es) :=
  ⟨h.1, h.2, h.3, h.4, h.5, h.6, by simp [h.events], h.8⟩

theorem BusAlike.access {s t : State} (h : BusAlike s t) (e : BusEvent) : BusAlike (s.access e) (t.access e) :=
  ⟨h.ram, h.cart, h.cfg, by simp [h.replies], by simp [h.reactPending, h.pending], by simp [h.reactStall],
    by simp [h.events], h.masked⟩

theorem BusAlike.busRead {s t : State} (h : BusAlike s t) (a : Word) : BusAlike (s.busRead a) (t.busRead a) := by
  unfold State.busRead
  rw [h.peek]
  exact h.access _

theorem BusAlike.busReads {s t : State} (h : BusAlike s t) (as : List Word) : BusAlike (s.busReads as) (t.busReads as) := by
  induction as generalizing s t with
  | nil => exact h
  | cons a as ih => exact ih (h.busRead a)

theorem BusAlike.busWrite {s t : State} (h : BusAlike s t) (a : Word) (v : Byte) :
    BusAlike (s.busWrite a v) (t.busWrite a v) := by
  have hr : t.ramAfter a v = s.ramAfter a v := by unfold State.ramAfter; rw [h.route, h.ram]
  have hc : t.cartAfter a v = s.cartAfter a v := by unfold State.cartAfter; rw [h.route, h.cfg, h.cart]
  have he : t.mapperEvents a v = s.mapperEvents a v := by unfold State.mapperEvents; rw [h.route, h.cfg]
  refine ⟨hr, hc, h.cfg, by simp [h.replies], ?_, by simp [h.reactStall], ?_, h.masked⟩
  · show t.reactPending (t.eventsPending _) = s.reactPending (s.eventsPending _)
    rw [he, h.reactPending, h.eventsPending]
  · rw [State.busWrite_events, State.busWrite_events, h.events, he]

theorem BusAlike.busWrites {s t : State} (h : BusAlike s t) (ws : List (Word × Byte)) :
    BusAlike (s.busWrites ws) (t.busWrites ws) := by
  induction ws generalizing s t with
  | nil => exact h
  | cons w ws ih => exact ih (h.busWrite w.1 w.2)

theorem BusAlike.read16 {s t : State} (h : BusAlike s t) (a : Word) : t.read16 a = s.read16 a := by
  unfold State.read16
  rw [h.peek, (h.busRead a).peek]

theorem BusAlike.read16Wrap {s t : State} (h : BusAlike s t) (a : Word) : t.read16Wrap a = s.read16Wrap a := by
  unfold State.read16Wrap
  rw [h.peek, (h.busRead a).peek]

theorem BusAlike.setFlag {s t : State} (h : BusAlike s t) (f : Flag) (v : Bool) (hf : f ≠ .i) :
    BusAlike s (t.setFlag f v) :=
  ⟨h.1, h.2, h.3, h.4, h.5, h.6, h.7, by rw [State.setFlag_flag, if_neg (Ne.symm hf)]; exact h.8⟩

theorem BusAlike.setNZ {s t : State} (h : BusAlike s t) (v : Byte) : BusAlike s (t.setNZ v) :=
  ⟨h.1, h.2, h.3, h.4, h.5, h.6, h.7, by rw [State.setNZ_flag]; exact h.8⟩

theorem BusAlike.setP {s t : State} (h : BusAlike s t) (v : Byte) (hv : getFlag v .i = t.flag .i) :
    BusAlike s (t.setP v) :=
  ⟨h.1, h.2, h.3, h.4, h.5, h.6, h.7, by rw [State.setP_flag, hv]; exact h.8⟩

theorem BusAlike.setA {s t : State} (h : BusAlike s t) (v : Byte) : BusAlike s (t.setA v) :=
  ⟨h.1, h.2, h.3, h.4, h.5, h.6, h.7, h.8⟩

theorem BusAlike.setX {s t : State} (h : BusAlike s t) (v : Byte) : BusAlike s (t.setX v) :=
  ⟨h.1, h.2, h.3, h.4, h.5, h.6, h.7, h.8⟩

theorem BusAlike.setY {s t : State} (h : BusAlike s t) (v : Byte) : BusAlike s (t.setY v) :=
  ⟨h.1, h.2, h.3, h.4, h.5, h.6, h.7, h.8⟩

theorem BusAlike.setSp {s t : State} (h : BusAlike s t) (v : Byte) : BusAlike s (t.setSp v) :=
  ⟨h.1, h.2, h.3, h.4, h.5, h.6, h.7, h.8⟩

theorem BusAlike.setPc {s t : State} (h : BusAlike s t) (v : Word) : BusAlike s (t.setPc v) :=
  ⟨h.1, h.2, h.3, h.4, h.5, h.6, h.7, h.8⟩

theorem BusAlike.setHalted {s t : State} (h : BusAlike s t) (b : Bool) : BusAlike s (t.setHalted b) :=
  ⟨h.1, h.2, h.3, h.4, h.5, h.6, h.7, h.8⟩

theorem BusAlike.setReturned {s t : State} (h : BusAlike s t) (n : BitVec 64) : BusAlike s (t.setReturned n) :=
  ⟨h.1, h.2, h.3, h.4, h.5, h.6, h.7, h.8⟩

theorem BusAlike.charge {s t : State} (h : BusAlike s t) (n : Nat) : BusAlike s (t.charge n) :=
  ⟨h.1, h.2, h.3, h.4, h.5, h.6, h.7, h.8⟩

/-! ### The stack -/

@[simp] theorem stackAddr_toNat (sp : Byte) : (stackAddr sp).toNat = 256 + sp.toNat := by
  unfold stackAddr w16
  rw [BitVec.toNat_append]
  have : (1 : BitVec 8).toNat <<< 8 ||| sp.toNat = 256 + sp.toNat := by
    have h := sp.isLt
    have : (256 : Nat) = 2 ^ 8 * 1 := rfl
    rw [show (1 : BitVec 8).toNat <<< 8 = 2 ^ 8 * 1 by rfl, ← Nat.two_pow_add_eq_or_of_lt h]
  exact this

@[simp] theorem State.push_a (s : State) (v : Byte) : (s.push v).a = s.a := by simp [State.push]
@[simp] theorem State.push_x (s : State) (v : Byte) : (s.push v).x = s.x := by simp [State.push]
@[simp] theorem State.push_y (s : State) (v : Byte) : (s.push v).y = s.y := by simp [State.push]
@[simp] theorem State.push_sp (s : State) (v : Byte) : (s.push v).sp = s.sp - 1 := by simp [State.push]
@[simp] theorem State.push_pc (s : State) (v : Byte) : (s.push v).pc = s.pc := by simp [State.push]
@[simp] theorem State.push_p (s : State) (v : Byte) : (s.push v).p = s.p := by simp [State.push]
@[simp] theorem State.push_cycles (s : State) (v : Byte) : (s.push v).cycles = s.cycles := by simp [State.push]
@[simp] theorem State.push_halted (s : State) (v : Byte) : (s.push v).halted = s.halted := by simp [State.push]
@[simp] theorem State.push_cfg (s : State) (v : Byte) : (s.push v).cfg = s.cfg := by simp [State.push]
@[simp] theorem State.push_returned (s : State) (v : Byte) : (s.push v).returned = s.returned := by simp [State.push]
@[simp] theorem State.push_flag (s : State) (v : Byte) (f : Flag) : (s.push v).flag f = s.flag f := by simp [State.flag]

@[simp] theorem State.push16_a (s : State) (w : Word) : (s.push16 w).a = s.a := by simp [State.push16]
@[simp] theorem State.push16_x (s : State) (w : Word) : (s.push16 w).x = s.x := by simp [State.push16]
@[simp] theorem State.push16_y (s : State) (w : Word) : (s.push16 w).y = s.y := by simp [State.push16]
@[simp] theorem State.push16_sp (s : State) (w : Word) : (s.push16 w).sp = s.sp - 1 - 1 := by simp [State.push16]
@[simp] theorem State.push16_pc (s : State) (w : Word) : (s.push16 w).pc = s.pc := by simp [State.push16]
@[simp] theorem State.push16_p (s : State) (w : Word) : (s.push16 w).p = s.p := by simp [State.push16]
@[simp] theorem State.push16_cycles (s : State) (w : Word) : (s.push16 w).cycles = s.cycles := by simp [State.push16]
@[simp] theorem State.push16_halted (s : State) (w : Word) : (s.push16 w).halted = s.halted := by simp [State.push16]
@[simp] theorem State.push16_cfg (s : State) (w : Word) : (s.push16 w).cfg = s.cfg := by simp [State.push16]
@[simp] theorem State.push16_returned (s : State) (w : Word) : (s.push16 w).returned = s.returned := by simp [State.push16]
@[simp] theorem State.push16_flag (s : State) (w : Word) (f : Flag) : (s.push16 w).flag f = s.flag f := by simp [State.flag]

@[simp] theorem State.pop_a (s : State) : (s.pop).a = s.a := by simp [State.pop]
@[simp] theorem State.pop_x (s : State) : (s.pop).x = s.x := by simp [State.pop]
@[simp] theorem State.pop_y (s : State) : (s.pop).y = s.y := by simp [State.pop]
@[simp] theorem State.pop_sp (s : State) : (s.pop).sp = s.sp + 1 := by simp [State.pop]
@[simp] theorem State.pop_pc (s : State) : (s.pop).pc = s.pc := by simp [State.pop]
@[simp] theorem State.pop_p (s : State) : (s.pop).p = s.p := by simp [State.pop]
@[simp] theorem State.pop_cycles (s : State) : (s.pop).cycles = s.cycles := by simp [State.pop]
@[simp] theorem State.pop_halted (s : State) : (s.pop).halted = s.halted := by simp [State.pop]
@[simp] theorem State.pop_ram (s : State) : (s.pop).ram = s.ram := by simp [State.pop]
@[simp] theorem State.pop_cart (s : State) : (s.pop).cart = s.cart := by simp [State.pop]
@[simp] theorem State.pop_cfg (s : State) : (s.pop).cfg = s.cfg := by simp [State.pop]
@[simp] theorem State.pop_returned (s : State) : (s.pop).returned = s.returned := by simp [State.pop]
@[simp] theorem State.pop_flag (s : State) (f : Flag) : (s.pop).flag f = s.flag f := by simp [State.flag]

@[simp] theorem State.pop16_a (s : State) : (s.pop16).a = s.a := by simp [State.pop16]
@[simp] theorem State.pop16_x (s : State) : (s.pop16).x = s.x := by simp [State.pop16]
@[simp] theorem State.pop16_y (s : State) : (s.pop16).y = s.y := by simp [State.pop16]
@[simp] theorem State.pop16_sp (s : State) : (s.pop16).sp = s.sp + 1 + 1 := by simp [State.pop16]
@[simp] theorem State.pop16_pc (s : State) : (s.pop16).pc = s.pc := by simp [State.pop16]
@[simp] theorem State.pop16_p (s : State) : (s.pop16).p = s.p := by simp [State.pop16]
@[simp] theorem State.pop16_cycles (s : State) : (s.pop16).cycles = s.cycles := by simp [State.pop16]
@[simp] theorem State.pop16_halted (s : State) : (s.pop16).halted = s.halted := by simp [State.pop16]
@[simp] theorem State.pop16_ram (s : State) : (s.pop16).ram = s.ram := by simp [State.pop16]
@[simp] theorem State.pop16_cart (s : State) : (s.pop16).cart = s.cart := by simp [State.pop16]
@[simp] theorem State.pop16_cfg (s : State) : (s.pop16).cfg = s.cfg := by simp [State.pop16]
@[simp] theorem State.pop16_returned (s : State) : (s.pop16).returned = s.returned := by simp [State.pop16]
@[simp] theorem State.pop16_flag (s : State) (f : Flag) : (s.pop16).flag f = s.flag f := by simp [State.flag]

/-- A push is the write of its byte to the slot that S designates. -/
theorem State.push_alike (s : State) (v : Byte) : BusAlike (s.busWrite (stackAddr s.sp) v) (s.push v) :=
  (BusAlike.refl _).setSp _

/-- `push16` writes the high byte to the slot that S designates and the low byte to the slot below. -/
theorem State.push16_alike (s : State) (w : Word) :
    BusAlike (s.busWrites [(stackAddr s.sp, hi w), (stackAddr (s.sp - 1), lo w)]) (s.push16 w) :=
  ((s.push_alike (hi w)).busWrite _ _).setSp _

/-- `pop` is the read of the slot above S. -/
theorem State.pop_alike (s : State) : BusAlike (s.busRead (stackAddr (s.sp + 1))) s.pop :=
  (((BusAlike.refl s).setSp _).busRead _)

theorem State.popped_eq (s : State) : s.popped = s.peek (stackAddr (s.sp + 1)) := rfl

/-- `pop16` reads the two slots above S. -/
theorem State.pop16_alike (s : State) :
    BusAlike (s.busReads [stackAddr (s.sp + 1), stackAddr (s.sp + 1 + 1)]) s.pop16 :=
  ((s.pop_alike.setSp (s.pop.sp + 1)).busRead _)

theorem State.popped16_eq (s : State) :
    s.popped16 = w16 ((s.busRead (stackAddr (s.sp + 1))).peek (stackAddr (s.sp + 1 + 1))) (s.peek (stackAddr (s.sp + 1))) := by
  show w16 (s.pop.peek _) _ = _
  rw [s.pop_alike.peek]
  rfl

theorem State.push_stored (s : State) (v : Byte) : Stored (stackAddr s.sp) v s (s.push v) :=
  (s.busWrite_stored _ _).congr (.refl s) (s.push_alike v).kept

theorem State.push16_stored (s : State) (w : Word) :
    StoredAll [(stackAddr s.sp, hi w), (stackAddr (s.sp - 1), lo w)] s (s.push16 w) :=
  (s.busWrites_stored _).congr (.refl s) (s.push16_alike w).kept

end Sys2Proof.Machine
end

