-- ==== Sys2Proof/Laws/Operands.lean ====
section
/-! SUPPORT. What taking an exception, returning from one, advancing over an instruction and reading its operand leave in the
state, and which accesses they make (`BusAlike` to the state with just those accesses made). -/

namespace Sys2Proof.Machine

/-! ### Taking an exception -/

@[simp] theorem State.enterException_a (s : State) (w : Word) (f : Byte) (vec : Word) :
    (s.enterException w f vec).a = s.a := by
  simp [State.enterException]
@[simp] theorem State.enterException_x (s : State) (w : Word) (f : Byte) (vec : Word) :
    (s.enterException w f vec).x = s.x := by
  simp [State.enterException]
@[simp] theorem State.enterException_y (s : State) (w : Word) (f : Byte) (vec : Word) :
    (s.enterException w f vec).y = s.y := by
  simp [State.enterException]
@[simp] theorem State.enterException_sp (s : State) (w : Word) (f : Byte) (vec : Word) :
    (s.enterException w f vec).sp = s.sp - 1 - 1 - 1 := by
  simp [State.enterException]
@[simp] theorem State.enterException_p (s : State) (w : Word) (f : Byte) (vec : Word) :
    (s.enterException w f vec).p = putFlag s.p .i true := by
  simp [State.enterException]
@[simp] theorem State.enterException_cycles (s : State) (w : Word) (f : Byte) (vec : Word) :
    (s.enterException w f vec).cycles = s.cycles := by
  simp [State.enterException]
@[simp] theorem State.enterException_halted (s : State) (w : Word) (f : Byte) (vec : Word) :
    (s.enterException w f vec).halted = s.halted := by
  simp [State.enterException]
@[simp] theorem State.enterException_cfg (s : State) (w : Word) (f : Byte) (vec : Word) :
    (s.enterException w f vec).cfg = s.cfg := by
  simp [State.enterException]
@[simp] theorem State.enterException_returned (s : State) (w : Word) (f : Byte) (vec : Word) :
    (s.enterException w f vec).returned = s.returned := by
  simp [State.enterException]

@[simp] theorem State.enterException_flag (s : State) (w : Word) (f : Byte) (vec : Word) (g : Flag) :
    (s.enterException w f vec).flag g = if g = .i then true else s.flag g := by
  simp [State.flag, getFlag_putFlag]

/-- PC is the word at the vector, as the two vector reads find it. -/
@[simp] theorem State.enterException_pc (s : State) (w : Word) (f : Byte) (vec : Word) :
    (s.enterException w f vec).pc = ((s.push16 w).push f).read16 vec := by
  show (((s.push16 w).push f).setFlag .i true).read16 vec = _
  unfold State.read16
  rfl

/-- The pushes of an exception entry are three writes from the slot of S down. -/
theorem State.push_frame_alike (s : State) (w : Word) (f : Byte) :
    BusAlike (s.busWrites [(stackAddr s.sp, hi w), (stackAddr (s.sp - 1), lo w), (stackAddr (s.sp - 1 - 1), f)])
      ((s.push16 w).push f) := by
  have h := (s.push16_alike w).busWrite (stackAddr (s.sp - 1 - 1)) f
  have k := (s.push16 w).push_alike f
  rw [State.push16_sp] at k
  exact h.trans k

/-- The accesses of an exception entry: the three writes, then, with I set, the two reads of the vector. -/
theorem State.enterException_alike (s : State) (w : Word) (f : Byte) (vec : Word) :
    BusAlike (((s.busWrites [(stackAddr s.sp, hi w), (stackAddr (s.sp - 1), lo w), (stackAddr (s.sp - 1 - 1), f)]).setFlag .i
      true).busReads [vec, vec + 1]) (s.enterException w f vec) := by
  have h := s.push_frame_alike w f
  have k : BusAlike ((s.busWrites [(stackAddr s.sp, hi w), (stackAddr (s.sp - 1), lo w),
      (stackAddr (s.sp - 1 - 1), f)]).setFlag .i true) (((s.push16 w).push f).setFlag .i true) :=
    ⟨h.ram, h.cart, h.cfg, h.replies, h.pending, h.stall, h.events, by simp⟩
  exact (k.busReads [vec, vec + 1]).setPc _

/-- The return address and the flags are stored in the three slots from S down, and nothing else is. -/
theorem State.enterException_stored (s : State) (w : Word) (f : Byte) (vec : Word) :
    StoredAll [(stackAddr s.sp, hi w), (stackAddr (s.sp - 1), lo w), (stackAddr (s.sp - 1 - 1), f)] s
      (s.enterException w f vec) := by
  refine (s.busWrites_stored _).congr (.refl s) (StorageKept.trans ?_ (s.enterException_alike w f vec).kept)
  exact .of_eq (by simp) (by simp) (by simp)

/-! ### Returning from an exception -/

@[simp] theorem State.returnFromException_a (s : State) : s.returnFromException.a = s.a := by
  simp [State.returnFromException]
@[simp] theorem State.returnFromException_x (s : State) : s.returnFromException.x = s.x := by
  simp [State.returnFromException]
@[simp] theorem State.returnFromException_y (s : State) : s.returnFromException.y = s.y := by
  simp [State.returnFromException]
@[simp] theorem State.returnFromException_sp (s : State) : s.returnFromException.sp = s.sp + 1 + 1 + 1 := by
  simp [State.returnFromException]
@[simp] theorem State.returnFromException_p (s : State) : s.returnFromException.p = pulledFlags s.popped := by
  simp [State.returnFromException]
@[simp] theorem State.returnFromException_cycles (s : State) : s.returnFromException.cycles = s.cycles := by
  simp [State.returnFromException]
@[simp] theorem State.returnFromException_halted (s : State) : s.returnFromException.halted = s.halted := by
  simp [State.returnFromException]
@[simp] theorem State.returnFromException_cfg (s : State) : s.returnFromException.cfg = s.cfg := by
  simp [State.returnFromException]
@[simp] theorem State.returnFromException_returned (s : State) : s.returnFromException.returned = s.returned := by
  simp [State.returnFromException]
@[simp] theorem State.returnFromException_ram (s : State) : s.returnFromException.ram = s.ram := by
  simp [State.returnFromException]
@[simp] theorem State.returnFromException_cart (s : State) : s.returnFromException.cart = s.cart := by
  simp [State.returnFromException]

@[simp] theorem State.returnFromException_flag (s : State) (g : Flag) :
    s.returnFromException.flag g = getFlag (pulledFlags s.popped) g := by
  simp [State.flag]

/-- The accesses of a return: the flags are read, then, with the new flags in force, the two bytes of PC. -/
theorem State.returnFromException_alike (s : State) :
    BusAlike (((s.busRead (stackAddr (s.sp + 1))).setP (pulledFlags (s.peek (stackAddr (s.sp + 1))))).busReads
      [stackAddr (s.sp + 1 + 1), stackAddr (s.sp + 1 + 1 + 1)]) s.returnFromException := by
  have h := s.pop_alike
  have k : BusAlike ((s.busRead (stackAddr (s.sp + 1))).setP (pulledFlags (s.peek (stackAddr (s.sp + 1)))))
      (s.pop.setP (pulledFlags s.popped)) := ⟨h.ram, h.cart, h.cfg, h.replies, h.pending, h.stall, h.events, rfl⟩
  have j := (s.pop.setP (pulledFlags s.popped)).pop16_alike
  rw [State.setP_sp, State.pop_sp] at j
  exact ((k.busReads _).trans j).setPc _

/-- PC is the word in the two slots above the flags. -/
theorem State.returnFromException_pc (s : State) :
    let s1 := s.busRead (stackAddr (s.sp + 1))
    let s2 := s1.busRead (stackAddr (s.sp + 1 + 1))
    s.returnFromException.pc = w16 (s2.peek (stackAddr (s.sp + 1 + 1 + 1))) (s1.peek (stackAddr (s.sp + 1 + 1))) := by
  intro s1 s2
  show (s.pop.setP (pulledFlags s.popped)).popped16 = _
  rw [State.popped16_eq, State.setP_sp, State.pop_sp]
  have h : BusAlike s1 s.pop := s.pop_alike
  have h1 : (s.pop.setP (pulledFlags s.popped)).peek (stackAddr (s.sp + 1 + 1)) = s1.peek (stackAddr (s.sp + 1 + 1)) := by
    rw [State.setP_peek, h.peek]
  have h2 : ((s.pop.setP (pulledFlags s.popped)).busRead (stackAddr (s.sp + 1 + 1))).peek (stackAddr (s.sp + 1 + 1 + 1)) =
      s2.peek (stackAddr (s.sp + 1 + 1 + 1)) :=
    State.peek_congr (s := s2) (by simp [s2, s1]) (by simp [s2, s1]) (by simp [s2, s1]) (by simp [s2, h.replies]) _
  rw [h1, h2]

/-! ### Advancing over an instruction -/

@[simp] theorem State.afterPointer_a (s : State) (o : Operand) : (s.afterPointer o).a = s.a := by
  simp [State.afterPointer]
@[simp] theorem State.afterPointer_x (s : State) (o : Operand) : (s.afterPointer o).x = s.x := by
  simp [State.afterPointer]
@[simp] theorem State.afterPointer_y (s : State) (o : Operand) : (s.afterPointer o).y = s.y := by
  simp [State.afterPointer]
@[simp] theorem State.afterPointer_sp (s : State) (o : Operand) : (s.afterPointer o).sp = s.sp := by
  simp [State.afterPointer]
@[simp] theorem State.afterPointer_p (s : State) (o : Operand) : (s.afterPointer o).p = s.p := by
  simp [State.afterPointer]
@[simp] theorem State.afterPointer_halted (s : State) (o : Operand) : (s.afterPointer o).halted = s.halted := by
  simp [State.afterPointer]
@[simp] theorem State.afterPointer_cfg (s : State) (o : Operand) : (s.afterPointer o).cfg = s.cfg := by
  simp [State.afterPointer]
@[simp] theorem State.afterPointer_returned (s : State) (o : Operand) : (s.afterPointer o).returned = s.returned := by
  simp [State.afterPointer]
@[simp] theorem State.afterPointer_ram (s : State) (o : Operand) : (s.afterPointer o).ram = s.ram := by
  simp [State.afterPointer]
@[simp] theorem State.afterPointer_cart (s : State) (o : Operand) : (s.afterPointer o).cart = s.cart := by
  simp [State.afterPointer]
@[simp] theorem State.advance_a (s : State) (i : Instr) : (s.advance i).a = s.a := by
  simp [State.advance]
@[simp] theorem State.advance_x (s : State) (i : Instr) : (s.advance i).x = s.x := by
  simp [State.advance]
@[simp] theorem State.advance_y (s : State) (i : Instr) : (s.advance i).y = s.y := by
  simp [State.advance]
@[simp] theorem State.advance_sp (s : State) (i : Instr) : (s.advance i).sp = s.sp := by
  simp [State.advance]
@[simp] theorem State.advance_p (s : State) (i : Instr) : (s.advance i).p = s.p := by
  simp [State.advance]
@[simp] theorem State.advance_halted (s : State) (i : Instr) : (s.advance i).halted = s.halted := by
  simp [State.advance]
@[simp] theorem State.advance_cfg (s : State) (i : Instr) : (s.advance i).cfg = s.cfg := by
  simp [State.advance]
@[simp] theorem State.advance_returned (s : State) (i : Instr) : (s.advance i).returned = s.returned := by
  simp [State.advance]
@[simp] theorem State.advance_ram (s : State) (i : Instr) : (s.advance i).ram = s.ram := by
  simp [State.advance]
@[simp] theorem State.advance_cart (s : State) (i : Instr) : (s.advance i).cart = s.cart := by
  simp [State.advance]
@[simp] theorem State.advance_pc (s : State) (i : Instr) : (s.advance i).pc = s.pc + BitVec.ofNat 16 i.size := rfl
@[simp] theorem State.advance_cycles (s : State) (i : Instr) : (s.advance i).cycles = s.cycles +
      BitVec.ofNat 64 (stepCycles i s.cfg.pagePenaltyMode (resolve i.operand s).crossed) := by
  simp [State.advance, State.afterPointer]
@[simp] theorem State.advance_reg (s : State) (i : Instr) (r : Reg) : (s.advance i).reg r = s.reg r := by
  cases r <;> simp [State.reg]
@[simp] theorem State.advance_flag (s : State) (i : Instr) (f : Flag) : (s.advance i).flag f = s.flag f := by
  simp [State.flag]

/-- Steps 4 and 5 write PC and the cycle counter, beside the resolver's reads. -/
theorem State.advance_advanced (s : State) (i : Instr) : Advanced i s (s.advance i) := ⟨rfl, by simp⟩

/-- Steps 4 and 5 make the resolver's reads and no other access. -/
theorem State.advance_alike (s : State) (i : Instr) : BusAlike (s.afterPointer i.operand) (s.advance i) :=
  ((BusAlike.refl _).setPc _).charge _

/-- The same for an instruction whose operand is known by a name. -/
theorem State.advance_alike_of {s : State} {o : Operand} (i : Instr) (h : i.operand = o) :
    BusAlike (s.afterPointer o) (s.advance i) := h ▸ s.advance_alike i

/-- A resolver that follows no pointer makes no access. -/
theorem State.advance_alike_self {s : State} (i : Instr) (h : pointerReads i.operand s = []) : BusAlike s (s.advance i) := by
  have k := s.advance_alike i
  unfold State.afterPointer at k
  rwa [h] at k

theorem State.afterPointer_kept (s : State) (o : Operand) : StorageKept s (s.afterPointer o) := s.busReads_kept _

theorem State.advance_kept (s : State) (i : Instr) : StorageKept s (s.advance i) :=
  (s.afterPointer_kept _).trans (s.advance_alike i).kept

/-! ### Reading the operand -/

@[simp] theorem afterOperand_a (o : Operand) (r : Resolved) (s : State) : (afterOperand o r s).a = s.a := by
  cases o <;> rfl
@[simp] theorem afterOperand_x (o : Operand) (r : Resolved) (s : State) : (afterOperand o r s).x = s.x := by
  cases o <;> rfl
@[simp] theorem afterOperand_y (o : Operand) (r : Resolved) (s : State) : (afterOperand o r s).y = s.y := by
  cases o <;> rfl
@[simp] theorem afterOperand_sp (o : Operand) (r : Resolved) (s : State) : (afterOperand o r s).sp = s.sp := by
  cases o <;> rfl
@[simp] theorem afterOperand_pc (o : Operand) (r : Resolved) (s : State) : (afterOperand o r s).pc = s.pc := by
  cases o <;> rfl
@[simp] theorem afterOperand_p (o : Operand) (r : Resolved) (s : State) : (afterOperand o r s).p = s.p := by
  cases o <;> rfl
@[simp] theorem afterOperand_cycles (o : Operand) (r : Resolved) (s : State) : (afterOperand o r s).cycles = s.cycles := by
  cases o <;> rfl
@[simp] theorem afterOperand_halted (o : Operand) (r : Resolved) (s : State) : (afterOperand o r s).halted = s.halted := by
  cases o <;> rfl
@[simp] theorem afterOperand_cfg (o : Operand) (r : Resolved) (s : State) : (afterOperand o r s).cfg = s.cfg := by
  cases o <;> rfl
@[simp] theorem afterOperand_returned (o : Operand) (r : Resolved) (s : State) : (afterOperand o r s).returned = s.returned := by
  cases o <;> rfl
@[simp] theorem afterOperand_ram (o : Operand) (r : Resolved) (s : State) : (afterOperand o r s).ram = s.ram := by
  cases o <;> rfl
@[simp] theorem afterOperand_cart (o : Operand) (r : Resolved) (s : State) : (afterOperand o r s).cart = s.cart := by
  cases o <;> rfl
@[simp] theorem afterOperand_flag (o : Operand) (r : Resolved) (s : State) (f : Flag) :
    (afterOperand o r s).flag f = s.flag f := by
  simp [State.flag]
@[simp] theorem afterOperand_reg (o : Operand) (r : Resolved) (s : State) (q : Reg) :
    (afterOperand o r s).reg q = s.reg q := by
  cases q <;> simp [State.reg]

theorem afterOperand_kept (o : Operand) (r : Resolved) (s : State) : StorageKept s (afterOperand o r s) :=
  .of_eq (by simp) (by simp) (by simp)

/-- Alike states with the same A have the same operand. -/
theorem BusAlike.operandValue {s t : State} (h : BusAlike s t) (ha : t.a = s.a) (o : Operand) (r : Resolved) :
    operandValue o r t = operandValue o r s := by
  cases o <;> simp [Machine.operandValue, h.peek, ha]

theorem BusAlike.afterOperand {s t : State} (h : BusAlike s t) (ha : t.a = s.a) (o : Operand) (r : Resolved) :
    BusAlike (afterOperand o r s) (afterOperand o r t) := by
  cases o with
  | acc => exact h
  | _ =>
    unfold Machine.afterOperand
    rw [h.operandValue ha]
    exact h.access _

@[simp] theorem operandValue_advance (o : Operand) (r : Resolved) (s : State) (i : Instr) :
    operandValue o r (s.advance i) = operandValue o r (s.afterPointer i.operand) :=
  (s.advance_alike i).operandValue (by simp) o r

/-- The operand read of an instruction comes right after its resolver's reads. -/
theorem afterOperand_advance (o : Operand) (r : Resolved) (s : State) (i : Instr) :
    BusAlike (afterOperand o r (s.afterPointer i.operand)) (afterOperand o r (s.advance i)) :=
  (s.advance_alike i).afterOperand (by simp) o r

/-- The same for an instruction whose operand is known by a name. -/
theorem afterOperand_advance_of {o : Operand} {r : Resolved} {s : State} (i : Instr) (h : i.operand = o) :
    BusAlike (afterOperand o r (s.afterPointer o)) (afterOperand o r (s.advance i)) :=
  h ▸ afterOperand_advance i.operand r s i

/-! ### The shapes of an effect, from what the bus shows -/

/-- An instruction that stores nothing and looks from the bus like the state with its accesses made. -/
theorem RegisterEffect.of_alike {regs : List Reg} {flags : List Flag} {u s t : State} (h : BusAlike u t)
    (hk : StorageKept s t) (hr : RegsKept regs s t) (hf : FlagsKept flags s t) (hh : t.halted = s.halted)
    (hret : t.returned = s.returned) : RegisterEffect regs flags u s t :=
  ⟨hr, hf, ⟨hh, hk.cfg, hret⟩, hk, h.outside⟩

/-- An instruction that stores bytes and looks from the bus like the state with its accesses made. -/
theorem StoreEffect.of_alike {regs : List Reg} {flags : List Flag} {stores : List (Word × Byte)} {u s t : State}
    (h : BusAlike u t) (hs : StoredAll stores s t) (hr : RegsKept regs s t) (hf : FlagsKept flags s t)
    (hh : t.halted = s.halted) (hg : t.cfg = s.cfg) (hret : t.returned = s.returned) :
    StoreEffect regs flags stores u s t :=
  ⟨hr, hf, ⟨hh, hg, hret⟩, hs, h.outside⟩

/-- An instruction whose one access after its resolver's reads is a write. -/
theorem StoreEffect.of_busWrite (s : State) {o : Operand} (i : Instr) (h : i.operand = o) (a : Word) (v : Byte) :
    StoreEffect [] [] [(a, v)] ((s.afterPointer o).busWrite a v) s ((s.advance i).busWrite a v) :=
  .of_alike ((s.advance_alike_of i h).busWrite a v)
    (.one (((s.advance i).busWrite_stored a v).congr (s.advance_kept i).symm (.refl _)))
    (fun r _ => by simp) (fun f _ => by simp) (by simp) (by simp) (by simp)

/-- The indexed modes report a crossing exactly when the high byte of the address is not the base's
(spec/40_step_and_addressing.md R154). -/
theorem indexed_crossed (base : Word) (index : Byte) :
    (indexed base index).crossed = true ↔ hi (base + zext16 index) ≠ hi base := by simp [indexed]

end Sys2Proof.Machine
end

