-- ==== Sys2Proof/Laws/PerInstr.lean ====
section
/-! SUPPORT. Statements for all instructions, made per instruction. `EncodeLength`: the encoder gives a well-formed instruction
as many bytes as its size says (spec/30_encoding.md R100, R101). -/

namespace Sys2Proof.Laws.EncodeLength

/-- A well-formed instruction is encoded in as many bytes as its size says. -/
def Statement (i : Instr) : Prop := i.wellFormed = true → (encode i).length = i.size

theorem lda (o : Operand) : Statement (.lda o) := by
  intro h; cases o <;> first | rfl | exact absurd h Bool.false_ne_true
theorem ldx (o : Operand) : Statement (.ldx o) := by
  intro h; cases o <;> first | rfl | exact absurd h Bool.false_ne_true
theorem ldy (o : Operand) : Statement (.ldy o) := by
  intro h; cases o <;> first | rfl | exact absurd h Bool.false_ne_true
theorem sta (o : Operand) : Statement (.sta o) := by
  intro h; cases o <;> first | rfl | exact absurd h Bool.false_ne_true
theorem stx (o : Operand) : Statement (.stx o) := by
  intro h; cases o <;> first | rfl | exact absurd h Bool.false_ne_true
theorem sty (o : Operand) : Statement (.sty o) := by
  intro h; cases o <;> first | rfl | exact absurd h Bool.false_ne_true
theorem tax : Statement (.tax) := fun _ => rfl
theorem tay : Statement (.tay) := fun _ => rfl
theorem txa : Statement (.txa) := fun _ => rfl
theorem tya : Statement (.tya) := fun _ => rfl
theorem tsx : Statement (.tsx) := fun _ => rfl
theorem txs : Statement (.txs) := fun _ => rfl
theorem adc (o : Operand) : Statement (.adc o) := by
  intro h; cases o <;> first | rfl | exact absurd h Bool.false_ne_true
theorem sbc (o : Operand) : Statement (.sbc o) := by
  intro h; cases o <;> first | rfl | exact absurd h Bool.false_ne_true
theorem and (o : Operand) : Statement (.and o) := by
  intro h; cases o <;> first | rfl | exact absurd h Bool.false_ne_true
theorem ora (o : Operand) : Statement (.ora o) := by
  intro h; cases o <;> first | rfl | exact absurd h Bool.false_ne_true
theorem eor (o : Operand) : Statement (.eor o) := by
  intro h; cases o <;> first | rfl | exact absurd h Bool.false_ne_true
theorem cmp (o : Operand) : Statement (.cmp o) := by
  intro h; cases o <;> first | rfl | exact absurd h Bool.false_ne_true
theorem cpx (o : Operand) : Statement (.cpx o) := by
  intro h; cases o <;> first | rfl | exact absurd h Bool.false_ne_true
theorem cpy (o : Operand) : Statement (.cpy o) := by
  intro h; cases o <;> first | rfl | exact absurd h Bool.false_ne_true
theorem bit (o : Operand) : Statement (.bit o) := by
  intro h; cases o <;> first | rfl | exact absurd h Bool.false_ne_true
theorem inc (o : Operand) : Statement (.inc o) := by
  intro h; cases o <;> first | rfl | exact absurd h Bool.false_ne_true
theorem dec (o : Operand) : Statement (.dec o) := by
  intro h; cases o <;> first | rfl | exact absurd h Bool.false_ne_true
theorem inx : Statement (.inx) := fun _ => rfl
theorem iny : Statement (.iny) := fun _ => rfl
theorem dex : Statement (.dex) := fun _ => rfl
theorem dey : Statement (.dey) := fun _ => rfl
theorem asl (o : Operand) : Statement (.asl o) := by
  intro h; cases o <;> first | rfl | exact absurd h Bool.false_ne_true
theorem lsr (o : Operand) : Statement (.lsr o) := by
  intro h; cases o <;> first | rfl | exact absurd h Bool.false_ne_true
theorem rol (o : Operand) : Statement (.rol o) := by
  intro h; cases o <;> first | rfl | exact absurd h Bool.false_ne_true
theorem ror (o : Operand) : Statement (.ror o) := by
  intro h; cases o <;> first | rfl | exact absurd h Bool.false_ne_true
theorem bpl (d : Byte) : Statement (.bpl d) := fun _ => rfl
theorem bmi (d : Byte) : Statement (.bmi d) := fun _ => rfl
theorem bvc (d : Byte) : Statement (.bvc d) := fun _ => rfl
theorem bvs (d : Byte) : Statement (.bvs d) := fun _ => rfl
theorem bcc (d : Byte) : Statement (.bcc d) := fun _ => rfl
theorem bcs (d : Byte) : Statement (.bcs d) := fun _ => rfl
theorem bne (d : Byte) : Statement (.bne d) := fun _ => rfl
theorem beq (d : Byte) : Statement (.beq d) := fun _ => rfl
theorem jmp (o : Operand) : Statement (.jmp o) := by
  intro h; cases o <;> first | rfl | exact absurd h Bool.false_ne_true
theorem jsr (w : Word) : Statement (.jsr w) := fun _ => rfl
theorem rts : Statement (.rts) := fun _ => rfl
theorem brk : Statement (.brk) := fun _ => rfl
theorem rti : Statement (.rti) := fun _ => rfl
theorem pha : Statement (.pha) := fun _ => rfl
theorem pla : Statement (.pla) := fun _ => rfl
theorem php : Statement (.php) := fun _ => rfl
theorem plp : Statement (.plp) := fun _ => rfl
theorem clc : Statement (.clc) := fun _ => rfl
theorem sec : Statement (.sec) := fun _ => rfl
theorem cli : Statement (.cli) := fun _ => rfl
theorem sei : Statement (.sei) := fun _ => rfl
theorem clv : Statement (.clv) := fun _ => rfl
theorem cld : Statement (.cld) := fun _ => rfl
theorem sed : Statement (.sed) := fun _ => rfl
theorem nop : Statement (.nop) := fun _ => rfl
theorem slo (o : Operand) : Statement (.slo o) := by
  intro h; cases o <;> first | rfl | exact absurd h Bool.false_ne_true
theorem rla (o : Operand) : Statement (.rla o) := by
  intro h; cases o <;> first | rfl | exact absurd h Bool.false_ne_true
theorem sre (o : Operand) : Statement (.sre o) := by
  intro h; cases o <;> first | rfl | exact absurd h Bool.false_ne_true
theorem rra (o : Operand) : Statement (.rra o) := by
  intro h; cases o <;> first | rfl | exact absurd h Bool.false_ne_true
theorem dcp (o : Operand) : Statement (.dcp o) := by
  intro h; cases o <;> first | rfl | exact absurd h Bool.false_ne_true
theorem isc (o : Operand) : Statement (.isc o) := by
  intro h; cases o <;> first | rfl | exact absurd h Bool.false_ne_true
theorem sax (o : Operand) : Statement (.sax o) := by
  intro h; cases o <;> first | rfl | exact absurd h Bool.false_ne_true
theorem lax (o : Operand) : Statement (.lax o) := by
  intro h; cases o <;> first | rfl | exact absurd h Bool.false_ne_true
theorem anc (row : Fin 2) (b : Byte) : Statement (.anc row b) := by
  intro _; fin_cases row <;> rfl
theorem alr (b : Byte) : Statement (.alr b) := fun _ => rfl
theorem arr (b : Byte) : Statement (.arr b) := fun _ => rfl
theorem axs (b : Byte) : Statement (.axs b) := fun _ => rfl
theorem xaa (b : Byte) : Statement (.xaa b) := fun _ => rfl
theorem ahx (o : Operand) : Statement (.ahx o) := by
  intro h; cases o <;> first | rfl | exact absurd h Bool.false_ne_true
theorem shx (w : Word) : Statement (.shx w) := fun _ => rfl
theorem shy (w : Word) : Statement (.shy w) := fun _ => rfl
theorem tas (w : Word) : Statement (.tas w) := fun _ => rfl
theorem las (w : Word) : Statement (.las w) := fun _ => rfl
theorem sbcDup (b : Byte) : Statement (.sbcDup b) := fun _ => rfl
theorem nopImp (row : Fin 6) : Statement (.nopImp row) := by
  intro _; fin_cases row <;> rfl
theorem nopImm (row : Fin 5) (b : Byte) : Statement (.nopImm row b) := by
  intro _; fin_cases row <;> rfl
theorem nopZp (row : Fin 3) (b : Byte) : Statement (.nopZp row b) := by
  intro _; fin_cases row <;> rfl
theorem nopZpx (row : Fin 6) (b : Byte) : Statement (.nopZpx row b) := by
  intro _; fin_cases row <;> rfl
theorem nopAbs (w : Word) : Statement (.nopAbs w) := fun _ => rfl
theorem nopAbx (row : Fin 6) (w : Word) : Statement (.nopAbx row w) := by
  intro _; fin_cases row <;> rfl
theorem kil (row : Fin 12) : Statement (.kil row) := by
  intro _; fin_cases row <;> rfl

end Sys2Proof.Laws.EncodeLength
end

