-- ==== Sys2Proof/Laws/Words.lean ====
section
/-! SUPPORT. The byte-order helpers in arithmetic on numbers: what `lo`, `hi`, `w16` and the page-wrapping address are. -/

namespace Sys2Proof

theorem hi_toNat (w : Word) : (hi w).toNat = w.toNat / 256 := by
  have := w.isLt
  simp only [hi, BitVec.extractLsb'_toNat, Nat.shiftRight_eq_div_pow]
  omega

theorem lo_toNat (w : Word) : (lo w).toNat = w.toNat % 256 := by simp [lo, BitVec.extractLsb'_toNat]

theorem w16_toNat (h l : Byte) : (w16 h l).toNat = h.toNat * 256 + l.toNat := by
  unfold w16
  have hl := l.isLt
  rw [BitVec.toNat_append, Nat.shiftLeft_eq, Nat.mul_comm, ← Nat.two_pow_add_eq_or_of_lt hl]

/-- A word is its two bytes. -/
@[simp] theorem w16_hi_lo (w : Word) : w16 (hi w) (lo w) = w := by
  apply BitVec.eq_of_toNat_eq
  rw [w16_toNat, hi_toNat, lo_toNat]
  omega

@[simp] theorem hi_w16 (h l : Byte) : hi (w16 h l) = h := by
  have := h.isLt
  have := l.isLt
  apply BitVec.eq_of_toNat_eq
  rw [hi_toNat, w16_toNat]
  omega

@[simp] theorem lo_w16 (h l : Byte) : lo (w16 h l) = l := by
  have := l.isLt
  apply BitVec.eq_of_toNat_eq
  rw [lo_toNat, w16_toNat]
  omega

/-- Two addresses lie on different pages. -/
theorem hi_ne_hi (a b : Word) : hi a ≠ hi b ↔ a.toNat / 256 ≠ b.toNat / 256 := by
  constructor
  · intro h h'; exact h (BitVec.eq_of_toNat_eq (by rw [hi_toNat, hi_toNat, h']))
  · intro h h'; exact h (by rw [← hi_toNat, ← hi_toNat, h'])

namespace Machine

/-- The next address within the page. -/
theorem nextInPage_toNat (w : Word) : (nextInPage w).toNat = w.toNat / 256 * 256 + (w.toNat + 1) % 256 := by
  unfold nextInPage
  rw [w16_toNat, hi_toNat, BitVec.toNat_add, lo_toNat]
  simp

theorem zeroPage_toNat (b : Byte) : (zeroPage b).toNat = b.toNat := by
  unfold zeroPage
  rw [w16_toNat]
  simp

end Machine

/-! ### Steps of S and of PC -/

theorem byte_sub_two (b : Byte) : b - 1 - 1 = b - 2 := by revert b; decide

theorem byte_sub_three (b : Byte) : b - 1 - 1 - 1 = b - 3 := by revert b; decide

theorem byte_add_two (b : Byte) : b + 1 + 1 = b + 2 := by revert b; decide

theorem byte_add_three (b : Byte) : b + 1 + 1 + 1 = b + 3 := by revert b; decide

theorem word_add_two (w : Word) : w + 1 + 1 = w + 2 := by rw [BitVec.add_assoc]; rfl

theorem word_add_three (w : Word) : w + 2 + 1 = w + 3 := by rw [BitVec.add_assoc]; rfl

theorem word_three_sub_one (w : Word) : w + 3 - 1 = w + 2 := by
  rw [BitVec.sub_eq_add_neg, BitVec.add_assoc]; rfl

end Sys2Proof
end

