-- ==== Sys2Proof/Tests/Slice0.lean ====
section
/-! SUPPORT. Small tests. Expected results come from the spec: its opcode table, its vectors (spec/95_test_vectors.md) and its
worked examples. The last section gives, for every statement with hypotheses, a state and operands that meet them. -/

namespace Sys2Proof.Tests

open Sys2Proof Sys2Proof.Machine

/-! ### Helpers -/

/-- The start state of spec/95_test_vectors.md section 0. -/
def base : State := { State.reset with pc := 0x8000, events := [] }

/-- Bytes put into RAM. -/
def put (bytes : List (Word × Byte)) (s : State) : State :=
  bytes.foldl (fun s q => s.setRam (s.ram.write q.1.toNat q.2)) s

/-- Code bytes put at PC, one after another. -/
def code (bytes : List Byte) (s : State) : State :=
  (bytes.foldl (fun q v => (q.1 + 1, put [(q.1, v)] q.2)) (s.pc, s)).2

/-- The write transactions among what a step shows. -/
def writesOf (es : List BusEvent) : List (Word × Byte) :=
  es.filterMap fun e => match e with
    | .write a v => some (a, v)
    | .read _ _ | .irq | .irqAck | .mirroringChanged _ | .bankSwitched _ _ => none

/-- A, X, Y, S, P; PC; the writes; the return value. -/
def after (o : Host.Outcome State Fault Refusal) : Option (List Byte × Word × List (Word × Byte) × Nat) :=
  match o with
  | .next t => some ([t.a, t.x, t.y, t.sp, t.p], t.pc, writesOf t.events, t.returned.toNat)
  | .fault _ | .refused _ => none

/-- One vector of the spec: a start state, bytes of memory, code bytes; one step. -/
def vector (s : State) (bytes : List (Word × Byte)) (c : List Byte) :
    Option (List Byte × Word × List (Word × Byte) × Nat) :=
  after (step (code c (put bytes s)))

/-- Something of the next state. -/
def nextOf {α : Type} (o : Host.Outcome State Fault Refusal) (f : State → α) : Option α :=
  match o with
  | .next t => some (f t)
  | .fault _ | .refused _ => none

/-! ### Well-formedness: a term that each check refuses -/

theorem test_illFormed_alu : Instr.wellFormed (.lda .acc) = false ∧ Instr.wellFormed (.adc (.zpy 0)) = false ∧
    Instr.wellFormed (.sbc (.ind 0)) = false ∧ Instr.wellFormed (.and .imp) = false ∧
    Instr.wellFormed (.ora (.rel 0)) = false ∧ Instr.wellFormed (.eor .acc) = false ∧
    Instr.wellFormed (.cmp (.zpy 0)) = false := by decide

theorem test_illFormed_loads_and_stores : Instr.wellFormed (.sta (.imm 0)) = false ∧
    Instr.wellFormed (.ldx (.zpx 0)) = false ∧ Instr.wellFormed (.ldy (.zpy 0)) = false ∧
    Instr.wellFormed (.stx (.zpx 0)) = false ∧ Instr.wellFormed (.sty (.aby 0)) = false := by decide

theorem test_illFormed_compare_and_modify : Instr.wellFormed (.cpx (.zpx 0)) = false ∧
    Instr.wellFormed (.cpy (.abx 0)) = false ∧ Instr.wellFormed (.bit (.imm 0)) = false ∧
    Instr.wellFormed (.inc .acc) = false ∧ Instr.wellFormed (.dec (.aby 0)) = false ∧
    Instr.wellFormed (.asl (.aby 0)) = false ∧ Instr.wellFormed (.lsr (.imm 0)) = false ∧
    Instr.wellFormed (.rol (.izx 0)) = false ∧ Instr.wellFormed (.ror (.ind 0)) = false := by decide

theorem test_illFormed_jump_and_compositions : Instr.wellFormed (.jmp (.abx 0)) = false ∧
    Instr.wellFormed (.slo (.imm 0)) = false ∧ Instr.wellFormed (.rla .acc) = false ∧
    Instr.wellFormed (.sre (.zpy 0)) = false ∧ Instr.wellFormed (.rra .imp) = false ∧
    Instr.wellFormed (.dcp (.imm 0)) = false ∧ Instr.wellFormed (.isc (.ind 0)) = false ∧
    Instr.wellFormed (.sax (.izy 0)) = false ∧ Instr.wellFormed (.lax (.abx 0)) = false ∧
    Instr.wellFormed (.ahx (.abs 0)) = false := by decide

/-- An ill-formed instruction has no bytes; a well-formed one does. -/
theorem test_encode : encode (.sta (.imm 0)) = [] ∧ encode (.sta (.abs 0x1234)) = [0x8D, 0x34, 0x12] := by decide

/-! ### Decoding -/

/-- loads stores transfers: words of spec/opcode_table.json, low operand byte first (R100). -/
theorem test_decode_loads_stores_transfers :
    ([[0xBD, 0x34, 0x12], [0xBE, 0x34, 0x12], [0xBC, 0x34, 0x12], [0x9D, 0x34, 0x12],
      [0x96, 0x34], [0x94, 0x34], [0xAA], [0xA8],
      [0x8A], [0x98], [0xBA], [0x9A]] : List (List Byte)).map decode =
    [.ok (.lda (.abx 0x1234), []), .ok (.ldx (.aby 0x1234), []), .ok (.ldy (.abx 0x1234), []), .ok (.sta (.abx 0x1234), []),
      .ok (.stx (.zpy 0x34), []), .ok (.sty (.zpx 0x34), []), .ok (.tax, []), .ok (.tay, []),
      .ok (.txa, []), .ok (.tya, []), .ok (.tsx, []), .ok (.txs, [])] := by decide

/-- arithmetic: words of spec/opcode_table.json, low operand byte first (R100). -/
theorem test_decode_arithmetic :
    ([[0x7D, 0x34, 0x12], [0xFD, 0x34, 0x12], [0x3D, 0x34, 0x12], [0x1D, 0x34, 0x12],
      [0x5D, 0x34, 0x12], [0xDD, 0x34, 0x12], [0xEC, 0x34, 0x12], [0xCC, 0x34, 0x12],
      [0x2C, 0x34, 0x12], [0xFE, 0x34, 0x12], [0xDE, 0x34, 0x12], [0xE8],
      [0xC8], [0xCA], [0x88], [0x0A],
      [0x4A], [0x2A], [0x6A]] : List (List Byte)).map decode =
    [.ok (.adc (.abx 0x1234), []), .ok (.sbc (.abx 0x1234), []), .ok (.and (.abx 0x1234), []), .ok (.ora (.abx 0x1234), []),
      .ok (.eor (.abx 0x1234), []), .ok (.cmp (.abx 0x1234), []), .ok (.cpx (.abs 0x1234), []), .ok (.cpy (.abs 0x1234), []),
      .ok (.bit (.abs 0x1234), []), .ok (.inc (.abx 0x1234), []), .ok (.dec (.abx 0x1234), []), .ok (.inx, []),
      .ok (.iny, []), .ok (.dex, []), .ok (.dey, []), .ok (.asl .acc, []),
      .ok (.lsr .acc, []), .ok (.rol .acc, []), .ok (.ror .acc, [])] := by decide

/-- control flow: words of spec/opcode_table.json, low operand byte first (R100). -/
theorem test_decode_control_flow :
    ([[0x10, 0x34], [0x30, 0x34], [0x50, 0x34], [0x70, 0x34],
      [0x90, 0x34], [0xB0, 0x34], [0xD0, 0x34], [0xF0, 0x34],
      [0x6C, 0x34, 0x12], [0x20, 0x34, 0x12], [0x60], [0x00],
      [0x40]] : List (List Byte)).map decode =
    [.ok (.bpl 0x34, []), .ok (.bmi 0x34, []), .ok (.bvc 0x34, []), .ok (.bvs 0x34, []),
      .ok (.bcc 0x34, []), .ok (.bcs 0x34, []), .ok (.bne 0x34, []), .ok (.beq 0x34, []),
      .ok (.jmp (.ind 0x1234), []), .ok (.jsr 0x1234, []), .ok (.rts, []), .ok (.brk, []),
      .ok (.rti, [])] := by decide

/-- stack and flags: words of spec/opcode_table.json, low operand byte first (R100). -/
theorem test_decode_stack_and_flags :
    ([[0x48], [0x68], [0x08], [0x28],
      [0x18], [0x38], [0x58], [0x78],
      [0xB8], [0xD8], [0xF8], [0xEA]] : List (List Byte)).map decode =
    [.ok (.pha, []), .ok (.pla, []), .ok (.php, []), .ok (.plp, []),
      .ok (.clc, []), .ok (.sec, []), .ok (.cli, []), .ok (.sei, []),
      .ok (.clv, []), .ok (.cld, []), .ok (.sed, []), .ok (.nop, [])] := by decide

/-- compositions: words of spec/opcode_table.json, low operand byte first (R100). -/
theorem test_decode_compositions :
    ([[0x1F, 0x34, 0x12], [0x3F, 0x34, 0x12], [0x5F, 0x34, 0x12], [0x7F, 0x34, 0x12],
      [0xDF, 0x34, 0x12], [0xFF, 0x34, 0x12], [0x97, 0x34], [0xBF, 0x34, 0x12],
      [0x0B, 0x34], [0x2B, 0x34], [0x4B, 0x34], [0x6B, 0x34],
      [0xCB, 0x34], [0x8B, 0x34], [0x9F, 0x34, 0x12], [0x9E, 0x34, 0x12],
      [0x9C, 0x34, 0x12], [0x9B, 0x34, 0x12], [0xBB, 0x34, 0x12], [0xEB, 0x34]] : List (List Byte)).map decode =
    [.ok (.slo (.abx 0x1234), []), .ok (.rla (.abx 0x1234), []), .ok (.sre (.abx 0x1234), []), .ok (.rra (.abx 0x1234), []),
      .ok (.dcp (.abx 0x1234), []), .ok (.isc (.abx 0x1234), []), .ok (.sax (.zpy 0x34), []), .ok (.lax (.aby 0x1234), []),
      .ok (.anc 0 0x34, []), .ok (.anc 1 0x34, []), .ok (.alr 0x34, []), .ok (.arr 0x34, []),
      .ok (.axs 0x34, []), .ok (.xaa 0x34, []), .ok (.ahx (.aby 0x1234), []), .ok (.shx 0x1234, []),
      .ok (.shy 0x1234, []), .ok (.tas 0x1234, []), .ok (.las 0x1234, []), .ok (.sbcDup 0x34, [])] := by decide

/-- no operations and lock up: words of spec/opcode_table.json, low operand byte first (R100). -/
theorem test_decode_no_operations_and_lock_up :
    ([[0x1A], [0xFA], [0x80, 0x34], [0xE2, 0x34],
      [0x04, 0x34], [0x64, 0x34], [0x14, 0x34], [0xF4, 0x34],
      [0x0C, 0x34, 0x12], [0x1C, 0x34, 0x12], [0xFC, 0x34, 0x12], [0x02],
      [0x92], [0xF2]] : List (List Byte)).map decode =
    [.ok (.nopImp 0, []), .ok (.nopImp 5, []), .ok (.nopImm 0 0x34, []), .ok (.nopImm 4 0x34, []),
      .ok (.nopZp 0 0x34, []), .ok (.nopZp 2 0x34, []), .ok (.nopZpx 0 0x34, []), .ok (.nopZpx 5 0x34, []),
      .ok (.nopAbs 0x1234, []), .ok (.nopAbx 0 0x1234, []), .ok (.nopAbx 5 0x1234, []), .ok (.kil 0, []),
      .ok (.kil 8, []), .ok (.kil 11, [])] := by decide

/-- A list of bytes that ends before the instruction does holds none (R100). -/
theorem test_decode_short : decode [] = .error .noOpcode ∧ decode [0xA9] = .error .operandMissing ∧
    decode [0xAD, 0x00] = .error .operandMissing := by decide

/-- The word of a table row: the first byte is bits 7:0 (R100). -/
theorem test_decodeTableWord : decodeTableWord 24 0x1234BD = some (.lda (.abx 0x1234)) ∧
    decodeTableWord 8 0xA9 = some (.lda (.imm 0x00)) ∧ decodeTableWord 8 0x02 = some (.kil 0) := by decide

/-- `withFetchWord` makes the next step run that instruction: `ADC #$FF` after reset (R230). -/
theorem test_withFetchWord : nextOf (step (State.reset.withFetchWord 16 0xFF69)) (fun t => (t.a, t.pc, t.p)) =
    some (0xFF, 0x0002, 0xA4) := by decide

/-- The written-out reset state is what power-on gives (R568, R570). -/
theorem test_reset_is_powerOn : State.reset = State.powerOn Config.default [] none [] := by decide

/-! ### One step: the vectors of spec/95_test_vectors.md section 2 -/

/-- V1 of spec/95_test_vectors.md (R145). -/
theorem test_LDA_V1 : vector { base with x := 0x20 } [(0x0010, 0x77)] [0xB5, 0xF0] =
    some ([0x77, 0x20, 0x00, 0xFD, 0x24], 0x8002, [], 4) := by decide

/-- V2 of spec/95_test_vectors.md (R146). -/
theorem test_LDX_V2 : vector { base with y := 0x02 } [(0x0001, 0x81)] [0xB6, 0xFF] =
    some ([0x00, 0x81, 0x02, 0xFD, 0xA4], 0x8002, [], 4) := by decide

/-- V4 of spec/95_test_vectors.md (R148, R155). -/
theorem test_LDA_V4 : vector { base with x := 0x20 } [(0x1310, 0x05)] [0xBD, 0xF0, 0x12] =
    some ([0x05, 0x20, 0x00, 0xFD, 0x24], 0x8003, [], 5) := by decide

/-- V5 of spec/95_test_vectors.md (R149, R155). -/
theorem test_LDA_V5 : vector { base with y := 0x02 } [(0x0001, 0x42)] [0xB9, 0xFF, 0xFF] =
    some ([0x42, 0x00, 0x02, 0xFD, 0x24], 0x8003, [], 5) := by decide

/-- V6 of spec/95_test_vectors.md (R155). -/
theorem test_STA_V6 : vector { base with a := 0x99, x := 0x20 } [] [0x9D, 0xF0, 0x12] =
    some ([0x99, 0x20, 0x00, 0xFD, 0x24], 0x8003, [(0x1310, 0x99)], 5) := by decide

/-- V7 of spec/95_test_vectors.md (R151). -/
theorem test_LDA_V7 : vector { base with x := 0x00 } [(0x0000, 0x12), (0x00FF, 0x34), (0x0100, 0x56), (0x1234, 0xAB)] [0xA1, 0xFF] =
    some ([0xAB, 0x00, 0x00, 0xFD, 0xA4], 0x8002, [], 6) := by decide

/-- V9 of spec/95_test_vectors.md (R152, R155). -/
theorem test_LDA_V9 : vector { base with y := 0x20 } [(0x0010, 0xF0), (0x0011, 0x12), (0x1310, 0x7E)] [0xB1, 0x10] =
    some ([0x7E, 0x00, 0x20, 0xFD, 0x24], 0x8002, [], 6) := by decide

/-- V10 of spec/95_test_vectors.md (R152). -/
theorem test_LDA_V10 : vector { base with y := 0x01 } [(0x0000, 0x04), (0x00FF, 0x00), (0x0401, 0x09)] [0xB1, 0xFF] =
    some ([0x09, 0x00, 0x01, 0xFD, 0x24], 0x8002, [], 5) := by decide

/-- V11 of spec/95_test_vectors.md (R150, R280). -/
theorem test_JMP_V11 : vector base [(0x0200, 0xC0), (0x02FF, 0x00), (0x0300, 0xD0)] [0x6C, 0xFF, 0x02] =
    some ([0x00, 0x00, 0x00, 0xFD, 0x24], 0xC000, [], 5) := by decide

/-- V12 of spec/95_test_vectors.md (R35, R143). -/
theorem test_LDA_V12 : vector { base with pc := 0xFFFF } [(0x0000, 0x80)] [0xA9] =
    some ([0x80, 0x00, 0x00, 0xFD, 0xA4], 0x0001, [], 2) := by decide

/-- V13 of spec/95_test_vectors.md (R144). -/
theorem test_LDA_V13 : vector base [(0x0080, 0x00)] [0xA5, 0x80] =
    some ([0x00, 0x00, 0x00, 0xFD, 0x26], 0x8002, [], 3) := by decide

/-- V20 of spec/95_test_vectors.md (R173, R230). -/
theorem test_ADC_V20 : vector { base with a := 0x50 } [] [0x69, 0x50] =
    some ([0xA0, 0x00, 0x00, 0xFD, 0xE4], 0x8002, [], 2) := by decide

/-- V23 of spec/95_test_vectors.md (R176, R230). -/
theorem test_ADC_V23 : vector { base with a := 0x09, p := 0x2C } [] [0x69, 0x01] =
    some ([0x0A, 0x00, 0x00, 0xFD, 0x2C], 0x8002, [], 2) := by decide

/-- V24 of spec/95_test_vectors.md (R175, R231). -/
theorem test_SBC_V24 : vector { base with a := 0x50, p := 0x25 } [] [0xE9, 0xF0] =
    some ([0x60, 0x00, 0x00, 0xFD, 0x24], 0x8002, [], 2) := by decide

/-- V26 of spec/95_test_vectors.md (R175, R231). -/
theorem test_SBC_V26 : vector { base with a := 0x00, p := 0x25 } [] [0xE9, 0x01] =
    some ([0xFF, 0x00, 0x00, 0xFD, 0xA4], 0x8002, [], 2) := by decide

/-- V28 of spec/95_test_vectors.md (R182, R235). -/
theorem test_CMP_V28 : vector { base with a := 0x40 } [] [0xC9, 0x40] =
    some ([0x40, 0x00, 0x00, 0xFD, 0x27], 0x8002, [], 2) := by decide

/-- V30 of spec/95_test_vectors.md (R182, R235). -/
theorem test_CMP_V30 : vector { base with a := 0x00 } [] [0xC9, 0x80] =
    some ([0x00, 0x00, 0x00, 0xFD, 0xA4], 0x8002, [], 2) := by decide

/-- V31 of spec/95_test_vectors.md (R182, R236). -/
theorem test_CPX_V31 : vector { base with x := 0xFF } [] [0xE0, 0x10] =
    some ([0x00, 0xFF, 0x00, 0xFD, 0xA5], 0x8002, [], 2) := by decide

/-- V32 of spec/95_test_vectors.md (R182, R237). -/
theorem test_CPY_V32 : vector { base with y := 0x01 } [] [0xC0, 0xFF] =
    some ([0x00, 0x00, 0x01, 0xFD, 0x24], 0x8002, [], 2) := by decide

/-- V33 of spec/95_test_vectors.md (R184, R238). -/
theorem test_BIT_V33 : vector { base with a := 0x01 } [(0x0010, 0xC0)] [0x24, 0x10] =
    some ([0x01, 0x00, 0x00, 0xFD, 0xE6], 0x8002, [], 3) := by decide

/-- V34 of spec/95_test_vectors.md (R184, R238). -/
theorem test_BIT_V34 : vector { base with a := 0xFF, p := 0xE4 } [(0x3000, 0x01)] [0x2C, 0x00, 0x30] =
    some ([0xFF, 0x00, 0x00, 0xFD, 0x24], 0x8003, [], 4) := by decide

/-- V35 of spec/95_test_vectors.md (R232). -/
theorem test_AND_V35 : vector { base with a := 0xF0 } [] [0x29, 0x0F] =
    some ([0x00, 0x00, 0x00, 0xFD, 0x26], 0x8002, [], 2) := by decide

/-- V36 of spec/95_test_vectors.md (R233). -/
theorem test_ORA_V36 : vector { base with a := 0x01 } [] [0x09, 0x80] =
    some ([0x81, 0x00, 0x00, 0xFD, 0xA4], 0x8002, [], 2) := by decide

/-- V37 of spec/95_test_vectors.md (R234). -/
theorem test_EOR_V37 : vector { base with a := 0xFF } [] [0x49, 0xFF] =
    some ([0x00, 0x00, 0x00, 0xFD, 0x26], 0x8002, [], 2) := by decide

/-- V40 of spec/95_test_vectors.md (R178, R245). -/
theorem test_ASL_V40 : vector { base with a := 0x80 } [] [0x0A] =
    some ([0x00, 0x00, 0x00, 0xFD, 0x27], 0x8001, [], 2) := by decide

/-- V41 of spec/95_test_vectors.md (R178, R245). -/
theorem test_ASL_V41 : vector base [(0x0010, 0x41)] [0x06, 0x10] =
    some ([0x00, 0x00, 0x00, 0xFD, 0xA4], 0x8002, [(0x0010, 0x82)], 5) := by decide

/-- V42 of spec/95_test_vectors.md (R179, R246). -/
theorem test_LSR_V42 : vector { base with a := 0x01 } [] [0x4A] =
    some ([0x00, 0x00, 0x00, 0xFD, 0x27], 0x8001, [], 2) := by decide

/-- V43 of spec/95_test_vectors.md (R179, R246). -/
theorem test_LSR_V43 : vector { base with p := 0xA4 } [(0x0200, 0xFE)] [0x4E, 0x00, 0x02] =
    some ([0x00, 0x00, 0x00, 0xFD, 0x24], 0x8003, [(0x0200, 0x7F)], 6) := by decide

/-- V44 of spec/95_test_vectors.md (R180, R247). -/
theorem test_ROL_V44 : vector { base with a := 0x80 } [] [0x2A] =
    some ([0x00, 0x00, 0x00, 0xFD, 0x27], 0x8001, [], 2) := by decide

/-- V45 of spec/95_test_vectors.md (R180, R247). -/
theorem test_ROL_V45 : vector { base with a := 0x40, p := 0x25 } [] [0x2A] =
    some ([0x81, 0x00, 0x00, 0xFD, 0xA4], 0x8001, [], 2) := by decide

/-- V46 of spec/95_test_vectors.md (R181, R248). -/
theorem test_ROR_V46 : vector { base with a := 0x01, p := 0x25 } [] [0x6A] =
    some ([0x80, 0x00, 0x00, 0xFD, 0xA5], 0x8001, [], 2) := by decide

/-- V47 of spec/95_test_vectors.md (R181, R248). -/
theorem test_ROR_V47 : vector { base with x := 0x20 } [(0x1310, 0x02)] [0x7E, 0xF0, 0x12] =
    some ([0x00, 0x20, 0x00, 0xFD, 0x24], 0x8003, [(0x1310, 0x01)], 7) := by decide

/-- V48 of spec/95_test_vectors.md (R183, R239). -/
theorem test_INC_V48 : vector base [(0x0010, 0xFF)] [0xE6, 0x10] =
    some ([0x00, 0x00, 0x00, 0xFD, 0x26], 0x8002, [(0x0010, 0x00)], 5) := by decide

/-- V49 of spec/95_test_vectors.md (R183, R240). -/
theorem test_DEC_V49 : vector base [(0x0010, 0x00)] [0xC6, 0x10] =
    some ([0x00, 0x00, 0x00, 0xFD, 0xA4], 0x8002, [(0x0010, 0xFF)], 5) := by decide

/-- V50 of spec/95_test_vectors.md (R241). -/
theorem test_INX_V50 : vector { base with x := 0xFF, p := 0x25 } [] [0xE8] =
    some ([0x00, 0x00, 0x00, 0xFD, 0x27], 0x8001, [], 2) := by decide

/-- V51 of spec/95_test_vectors.md (R242). -/
theorem test_INY_V51 : vector { base with y := 0x7F } [] [0xC8] =
    some ([0x00, 0x00, 0x80, 0xFD, 0xA4], 0x8001, [], 2) := by decide

/-- V52 of spec/95_test_vectors.md (R243). -/
theorem test_DEX_V52 : vector { base with x := 0x00 } [] [0xCA] =
    some ([0x00, 0xFF, 0x00, 0xFD, 0xA4], 0x8001, [], 2) := by decide

/-- V53 of spec/95_test_vectors.md (R244). -/
theorem test_DEY_V53 : vector { base with y := 0x01 } [] [0x88] =
    some ([0x00, 0x00, 0x00, 0xFD, 0x26], 0x8001, [], 2) := by decide

/-- V61 of spec/95_test_vectors.md (R171, R200). -/
theorem test_LDA_V61 : vector base [] [0xA9, 0x80] =
    some ([0x80, 0x00, 0x00, 0xFD, 0xA4], 0x8002, [], 2) := by decide

/-- V62 of spec/95_test_vectors.md (R201). -/
theorem test_LDX_V62 : vector { base with x := 0x55 } [] [0xA2, 0x00] =
    some ([0x00, 0x00, 0x00, 0xFD, 0x26], 0x8002, [], 2) := by decide

/-- V63 of spec/95_test_vectors.md (R202). -/
theorem test_LDY_V63 : vector { base with x := 0x20 } [(0x1310, 0x90)] [0xBC, 0xF0, 0x12] =
    some ([0x00, 0x20, 0x90, 0xFD, 0xA4], 0x8003, [], 5) := by decide

/-- V64 of spec/95_test_vectors.md (R203). -/
theorem test_STA_V64 : vector { base with a := 0x5A, y := 0xFF } [(0x0010, 0x01), (0x0011, 0x20)] [0x91, 0x10] =
    some ([0x5A, 0x00, 0xFF, 0xFD, 0x24], 0x8002, [(0x2100, 0x5A)], 6) := by decide

/-- V65 of spec/95_test_vectors.md (R204). -/
theorem test_STX_V65 : vector { base with x := 0x11, y := 0x02 } [] [0x96, 0xFF] =
    some ([0x00, 0x11, 0x02, 0xFD, 0x24], 0x8002, [(0x0001, 0x11)], 4) := by decide

/-- V66 of spec/95_test_vectors.md (R205). -/
theorem test_STY_V66 : vector { base with y := 0x00, p := 0x24 } [] [0x8C, 0x00, 0x06] =
    some ([0x00, 0x00, 0x00, 0xFD, 0x24], 0x8003, [(0x0600, 0x00)], 4) := by decide

/-- V67 of spec/95_test_vectors.md (R206). -/
theorem test_TAX_V67 : vector { base with a := 0x80 } [] [0xAA] =
    some ([0x80, 0x80, 0x00, 0xFD, 0xA4], 0x8001, [], 2) := by decide

/-- V68 of spec/95_test_vectors.md (R207). -/
theorem test_TAY_V68 : vector { base with a := 0x00, y := 0x12 } [] [0xA8] =
    some ([0x00, 0x00, 0x00, 0xFD, 0x26], 0x8001, [], 2) := by decide

/-- V69 of spec/95_test_vectors.md (R208). -/
theorem test_TXA_V69 : vector { base with a := 0x33, x := 0x00 } [] [0x8A] =
    some ([0x00, 0x00, 0x00, 0xFD, 0x26], 0x8001, [], 2) := by decide

/-- V70 of spec/95_test_vectors.md (R209). -/
theorem test_TYA_V70 : vector { base with y := 0xFF } [] [0x98] =
    some ([0xFF, 0x00, 0xFF, 0xFD, 0xA4], 0x8001, [], 2) := by decide

/-- V71 of spec/95_test_vectors.md (R210). -/
theorem test_TSX_V71 : vector { base with sp := 0x00 } [] [0xBA] =
    some ([0x00, 0x00, 0x00, 0x00, 0x26], 0x8001, [], 2) := by decide

/-- V72 of spec/95_test_vectors.md (R211). -/
theorem test_TXS_V72 : vector { base with x := 0x00 } [] [0x9A] =
    some ([0x00, 0x00, 0x00, 0x00, 0x24], 0x8001, [], 2) := by decide

/-- V81 of spec/95_test_vectors.md (R156, R278). -/
theorem test_BEQ_V81 : vector { base with p := 0x26, pc := 0x10F0 } [] [0xF0, 0x7F] =
    some ([0x00, 0x00, 0x00, 0xFD, 0x26], 0x1171, [], 4) := by decide

/-- V82 of spec/95_test_vectors.md (R270, R278). -/
theorem test_BEQ_V82 : vector { base with p := 0x24, pc := 0x1000 } [] [0xF0, 0x0E] =
    some ([0x00, 0x00, 0x00, 0xFD, 0x24], 0x1002, [], 2) := by decide

/-- V83 of spec/95_test_vectors.md (R271). -/
theorem test_BPL_V83 : vector { base with p := 0x24, pc := 0x1000 } [] [0x10, 0x80] =
    some ([0x00, 0x00, 0x00, 0xFD, 0x24], 0x0F82, [], 4) := by decide

/-- V84 of spec/95_test_vectors.md (R271). -/
theorem test_BPL_V84 : vector { base with p := 0xA4, pc := 0x1000 } [] [0x10, 0x10] =
    some ([0x00, 0x00, 0x00, 0xFD, 0xA4], 0x1002, [], 2) := by decide

/-- V85 of spec/95_test_vectors.md (R272). -/
theorem test_BMI_V85 : vector { base with p := 0xA4 } [] [0x30, 0xFE] =
    some ([0x00, 0x00, 0x00, 0xFD, 0xA4], 0x8000, [], 3) := by decide

/-- V86 of spec/95_test_vectors.md (R273). -/
theorem test_BVC_V86 : vector { base with p := 0x24 } [] [0x50, 0x02] =
    some ([0x00, 0x00, 0x00, 0xFD, 0x24], 0x8004, [], 3) := by decide

/-- V87 of spec/95_test_vectors.md (R274). -/
theorem test_BVS_V87 : vector { base with p := 0x24 } [] [0x70, 0x02] =
    some ([0x00, 0x00, 0x00, 0xFD, 0x24], 0x8002, [], 2) := by decide

/-- V88 of spec/95_test_vectors.md (R275). -/
theorem test_BCC_V88 : vector { base with p := 0x24 } [] [0x90, 0x02] =
    some ([0x00, 0x00, 0x00, 0xFD, 0x24], 0x8004, [], 3) := by decide

/-- V89 of spec/95_test_vectors.md (R276). -/
theorem test_BCS_V89 : vector { base with p := 0x25 } [] [0xB0, 0x02] =
    some ([0x00, 0x00, 0x00, 0xFD, 0x25], 0x8004, [], 3) := by decide

/-- V90 of spec/95_test_vectors.md (R277). -/
theorem test_BNE_V90 : vector { base with p := 0x24, pc := 0x0205 } [] [0xD0, 0xFC] =
    some ([0x00, 0x00, 0x00, 0xFD, 0x24], 0x0203, [], 3) := by decide

/-- V91 of spec/95_test_vectors.md (R279). -/
theorem test_JMP_V91 : vector base [] [0x4C, 0x00, 0xC0] =
    some ([0x00, 0x00, 0x00, 0xFD, 0x24], 0xC000, [], 3) := by decide

/-- V92 of spec/95_test_vectors.md (R281). -/
theorem test_JSR_V92 : vector base [] [0x20, 0x00, 0xC0] =
    some ([0x00, 0x00, 0x00, 0xFB, 0x24], 0xC000, [(0x01FD, 0x80), (0x01FC, 0x02)], 6) := by decide

/-- V93 of spec/95_test_vectors.md (R282). -/
theorem test_RTS_V93 : vector { base with sp := 0xFB } [(0x01FC, 0x02), (0x01FD, 0x80)] [0x60] =
    some ([0x00, 0x00, 0x00, 0xFD, 0x24], 0x8003, [], 6) := by decide

/-- V94 of spec/95_test_vectors.md (R283). -/
theorem test_BRK_V94 : vector base [(0xFFFE, 0x00), (0xFFFF, 0x90)] [0x00, 0xFF] =
    some ([0x00, 0x00, 0x00, 0xFA, 0x24], 0x9000, [(0x01FD, 0x80), (0x01FC, 0x02), (0x01FB, 0x34)], 7) := by decide

/-- V95 of spec/95_test_vectors.md (R284). -/
theorem test_RTI_V95 : vector { base with sp := 0xFA, p := 0x24 } [(0x01FB, 0xDF), (0x01FC, 0x34), (0x01FD, 0x12)] [0x40] =
    some ([0x00, 0x00, 0x00, 0xFD, 0xEF], 0x1234, [], 6) := by decide

/-- V96 of spec/95_test_vectors.md (R282). -/
theorem test_RTS_V96 : vector { base with sp := 0xFF } [(0x0100, 0xFF), (0x0101, 0xFF)] [0x60] =
    some ([0x00, 0x00, 0x00, 0x01, 0x24], 0x0000, [], 6) := by decide

/-- V100 of spec/95_test_vectors.md (R300). -/
theorem test_PHA_V100 : vector { base with a := 0x7E } [] [0x48] =
    some ([0x7E, 0x00, 0x00, 0xFC, 0x24], 0x8001, [(0x01FD, 0x7E)], 3) := by decide

/-- V101 of spec/95_test_vectors.md (R300, R34). -/
theorem test_PHA_V101 : vector { base with a := 0x7E, sp := 0x00 } [] [0x48] =
    some ([0x7E, 0x00, 0x00, 0xFF, 0x24], 0x8001, [(0x0100, 0x7E)], 3) := by decide

/-- V102 of spec/95_test_vectors.md (R301). -/
theorem test_PLA_V102 : vector { base with sp := 0xFC } [(0x01FD, 0x00)] [0x68] =
    some ([0x00, 0x00, 0x00, 0xFD, 0x26], 0x8001, [], 4) := by decide

/-- V104 of spec/95_test_vectors.md (R302). -/
theorem test_PHP_V104 : vector { base with p := 0xE7 } [] [0x08] =
    some ([0x00, 0x00, 0x00, 0xFC, 0xE7], 0x8001, [(0x01FD, 0xF7)], 3) := by decide

/-- V106 of spec/95_test_vectors.md (R303). -/
theorem test_PLP_V106 : vector { base with sp := 0xFC, p := 0xFF } [(0x01FD, 0x00)] [0x28] =
    some ([0x00, 0x00, 0x00, 0xFD, 0x20], 0x8001, [], 4) := by decide

/-- V107 of spec/95_test_vectors.md (R304). -/
theorem test_CLC_V107 : vector { base with p := 0x25 } [] [0x18] =
    some ([0x00, 0x00, 0x00, 0xFD, 0x24], 0x8001, [], 2) := by decide

/-- V108 of spec/95_test_vectors.md (R305). -/
theorem test_SEC_V108 : vector { base with p := 0x24 } [] [0x38] =
    some ([0x00, 0x00, 0x00, 0xFD, 0x25], 0x8001, [], 2) := by decide

/-- V109 of spec/95_test_vectors.md (R306). -/
theorem test_CLI_V109 : vector { base with p := 0x24 } [] [0x58] =
    some ([0x00, 0x00, 0x00, 0xFD, 0x20], 0x8001, [], 2) := by decide

/-- V110 of spec/95_test_vectors.md (R307). -/
theorem test_SEI_V110 : vector { base with p := 0x20 } [] [0x78] =
    some ([0x00, 0x00, 0x00, 0xFD, 0x24], 0x8001, [], 2) := by decide

/-- V111 of spec/95_test_vectors.md (R308). -/
theorem test_CLV_V111 : vector { base with p := 0x64 } [] [0xB8] =
    some ([0x00, 0x00, 0x00, 0xFD, 0x24], 0x8001, [], 2) := by decide

/-- V112 of spec/95_test_vectors.md (R309). -/
theorem test_CLD_V112 : vector { base with p := 0x2C } [] [0xD8] =
    some ([0x00, 0x00, 0x00, 0xFD, 0x24], 0x8001, [], 2) := by decide

/-- V113 of spec/95_test_vectors.md (R310). -/
theorem test_SED_V113 : vector { base with p := 0x24 } [] [0xF8] =
    some ([0x00, 0x00, 0x00, 0xFD, 0x2C], 0x8001, [], 2) := by decide

/-- V114 of spec/95_test_vectors.md (R311). -/
theorem test_NOP_V114 : vector base [] [0xEA] =
    some ([0x00, 0x00, 0x00, 0xFD, 0x24], 0x8001, [], 2) := by decide

/-- V120 of spec/95_test_vectors.md (R331). -/
theorem test_SLO_V120 : vector { base with a := 0x01 } [(0x0010, 0x81)] [0x07, 0x10] =
    some ([0x03, 0x00, 0x00, 0xFD, 0x25], 0x8002, [(0x0010, 0x02)], 5) := by decide

/-- V121 of spec/95_test_vectors.md (R332). -/
theorem test_RLA_V121 : vector { base with a := 0xFF, p := 0x25 } [(0x0010, 0x80)] [0x27, 0x10] =
    some ([0x01, 0x00, 0x00, 0xFD, 0x25], 0x8002, [(0x0010, 0x01)], 5) := by decide

/-- V122 of spec/95_test_vectors.md (R333). -/
theorem test_SRE_V122 : vector { base with a := 0x0F } [(0x0010, 0x03)] [0x47, 0x10] =
    some ([0x0E, 0x00, 0x00, 0xFD, 0x25], 0x8002, [(0x0010, 0x01)], 5) := by decide

/-- V123 of spec/95_test_vectors.md (R334). -/
theorem test_RRA_V123 : vector { base with a := 0x10, p := 0x24 } [(0x0010, 0x03)] [0x67, 0x10] =
    some ([0x12, 0x00, 0x00, 0xFD, 0x24], 0x8002, [(0x0010, 0x01)], 5) := by decide

/-- V124 of spec/95_test_vectors.md (R335). -/
theorem test_DCP_V124 : vector { base with a := 0x40 } [(0x0010, 0x41)] [0xC7, 0x10] =
    some ([0x40, 0x00, 0x00, 0xFD, 0x27], 0x8002, [(0x0010, 0x40)], 5) := by decide

/-- V126 of spec/95_test_vectors.md (R336). -/
theorem test_ISC_V126 : vector { base with a := 0x00, x := 0x20, p := 0x25 } [(0x1310, 0xFF)] [0xFF, 0xF0, 0x12] =
    some ([0x00, 0x20, 0x00, 0xFD, 0x27], 0x8003, [(0x1310, 0x00)], 7) := by decide

/-- V127 of spec/95_test_vectors.md (R337). -/
theorem test_SAX_V127 : vector { base with a := 0xF0, x := 0x3C, p := 0x24 } [] [0x87, 0x10] =
    some ([0xF0, 0x3C, 0x00, 0xFD, 0x24], 0x8002, [(0x0010, 0x30)], 3) := by decide

/-- V128 of spec/95_test_vectors.md (R338). -/
theorem test_LAX_V128 : vector base [(0x0010, 0x80)] [0xA7, 0x10] =
    some ([0x80, 0x80, 0x00, 0xFD, 0xA4], 0x8002, [], 3) := by decide

/-- V130 of spec/95_test_vectors.md (R338). -/
theorem test_LAX_V130 : vector { base with a := 0xFF } [] [0xAB, 0x5A] =
    some ([0x5A, 0x5A, 0x00, 0xFD, 0x24], 0x8002, [], 2) := by decide

/-- V131 of spec/95_test_vectors.md (R339). -/
theorem test_ANC_V131 : vector { base with a := 0xFF } [] [0x0B, 0x80] =
    some ([0x80, 0x00, 0x00, 0xFD, 0xA5], 0x8002, [], 2) := by decide

/-- V133 of spec/95_test_vectors.md (R340). -/
theorem test_ALR_V133 : vector { base with a := 0x03 } [] [0x4B, 0xFF] =
    some ([0x01, 0x00, 0x00, 0xFD, 0x25], 0x8002, [], 2) := by decide

/-- V135 of spec/95_test_vectors.md (R341). -/
theorem test_ARR_V135 : vector { base with a := 0x80, p := 0x24 } [] [0x6B, 0xFF] =
    some ([0x40, 0x00, 0x00, 0xFD, 0x65], 0x8002, [], 2) := by decide

/-- V136 of spec/95_test_vectors.md (R341). -/
theorem test_ARR_V136 : vector { base with a := 0x40, p := 0x24 } [] [0x6B, 0xFF] =
    some ([0x20, 0x00, 0x00, 0xFD, 0x64], 0x8002, [], 2) := by decide

/-- V137 of spec/95_test_vectors.md (R342). -/
theorem test_AXS_V137 : vector { base with a := 0xFF, x := 0x0F } [] [0xCB, 0x01] =
    some ([0xFF, 0x0E, 0x00, 0xFD, 0x25], 0x8002, [], 2) := by decide

/-- V138 of spec/95_test_vectors.md (R342). -/
theorem test_AXS_V138 : vector { base with a := 0xFF, x := 0x0F } [] [0xCB, 0x10] =
    some ([0xFF, 0xFF, 0x00, 0xFD, 0xA4], 0x8002, [], 2) := by decide

/-- V139 of spec/95_test_vectors.md (R343). -/
theorem test_XAA_V139 : vector { base with a := 0xF0, x := 0x0F } [] [0x8B, 0xFF] =
    some ([0x0F, 0x0F, 0x00, 0xFD, 0x24], 0x8002, [], 2) := by decide

/-- V140 of spec/95_test_vectors.md (R344). -/
theorem test_AHX_V140 : vector { base with a := 0xFF, x := 0xFF, y := 0x05 } [] [0x9F, 0x00, 0x12] =
    some ([0xFF, 0xFF, 0x05, 0xFD, 0x24], 0x8003, [(0x1205, 0x13)], 5) := by decide

/-- V141 of spec/95_test_vectors.md (R345). -/
theorem test_SHX_V141 : vector { base with x := 0xFF, y := 0x20 } [] [0x9E, 0xF0, 0x12] =
    some ([0x00, 0xFF, 0x20, 0xFD, 0x24], 0x8003, [(0x1310, 0x13)], 5) := by decide

/-- V142 of spec/95_test_vectors.md (R346). -/
theorem test_SHY_V142 : vector { base with x := 0x01, y := 0xFF } [] [0x9C, 0x00, 0x02] =
    some ([0x00, 0x01, 0xFF, 0xFD, 0x24], 0x8003, [(0x0201, 0x03)], 5) := by decide

/-- V143 of spec/95_test_vectors.md (R347). -/
theorem test_TAS_V143 : vector { base with a := 0xF3, x := 0x3F, y := 0x01 } [] [0x9B, 0x00, 0x12] =
    some ([0xF3, 0x3F, 0x01, 0x33, 0x24], 0x8003, [(0x1201, 0x13)], 5) := by decide

/-- V144 of spec/95_test_vectors.md (R348). -/
theorem test_LAS_V144 : vector { base with y := 0x00, sp := 0xF0 } [(0x0200, 0x3C)] [0xBB, 0x00, 0x02] =
    some ([0x30, 0x30, 0x00, 0x30, 0x24], 0x8003, [], 4) := by decide

/-- V145 of spec/95_test_vectors.md (R349). -/
theorem test_SBC_V145 : vector { base with a := 0x00, p := 0x25 } [] [0xEB, 0x01] =
    some ([0xFF, 0x00, 0x00, 0xFD, 0xA4], 0x8002, [], 2) := by decide

/-- V146 of spec/95_test_vectors.md (R350). -/
theorem test_NOP_V146 : vector { base with a := 0x12 } [] [0x1A] =
    some ([0x12, 0x00, 0x00, 0xFD, 0x24], 0x8001, [], 2) := by decide

/-- V147 of spec/95_test_vectors.md (R351). -/
theorem test_NOP_V147 : vector base [] [0x80, 0xFF] =
    some ([0x00, 0x00, 0x00, 0xFD, 0x24], 0x8002, [], 2) := by decide

/-- V148 of spec/95_test_vectors.md (R352). -/
theorem test_NOP_V148 : vector { base with x := 0x20 } [] [0x1C, 0xF0, 0x00] =
    some ([0x00, 0x20, 0x00, 0xFD, 0x24], 0x8003, [], 5) := by decide

/-- V149 of spec/95_test_vectors.md (R352). -/
theorem test_NOP_V149 : vector base [] [0x0C, 0x00, 0x20] =
    some ([0x00, 0x00, 0x00, 0xFD, 0x24], 0x8003, [], 4) := by decide

/-- V150 of spec/95_test_vectors.md (R353). -/
theorem test_KIL_V150 : vector base [] [0x02] =
    some ([0x00, 0x00, 0x00, 0xFD, 0x24], 0x8001, [], 2) := by decide

/-! ### Bus transactions of a step (R140) -/

/-- `ROR abs,X` (V47): opcode, two operand bytes, the operand, then the write. -/
theorem test_transactions_of_ror : nextOf (step (code [0x7E, 0xF0, 0x12] (put [(0x1310, 0x02)] { base with x := 0x20 })))
    (fun t => t.events) = some [.read 0x8000 0x7E, .read 0x8001 0xF0, .read 0x8002 0x12, .read 0x1310 0x02,
      .write 0x1310 0x01] := by decide

/-- `SLO zp` (V120): the second half reads `ea` again (R159). -/
theorem test_transactions_of_slo : nextOf (step (code [0x07, 0x10] (put [(0x0010, 0x81)] { base with a := 0x01 })))
    (fun t => t.events) = some [.read 0x8000 0x07, .read 0x8001 0x10, .read 0x0010 0x81, .write 0x0010 0x02,
      .read 0x0010 0x02] := by decide

/-- `NOP abs,X` (V148) reads no operand (R352). -/
theorem test_transactions_of_nop : nextOf (step (code [0x1C, 0xF0, 0x00] { base with x := 0x20 }))
    (fun t => t.events) = some [.read 0x8000 0x1C, .read 0x8001 0xF0, .read 0x8002 0x00] := by decide

/-! ### Interrupts, stall, lock-up, reset: traces T1 to T6 of spec/95_test_vectors.md -/

/-- The machine of the traces, with I clear. -/
def traced : State :=
  put [(0xFFFB, 0xA0), (0xFFFD, 0x80), (0xFFFF, 0x90), (0x9000, 0xEA), (0xA000, 0xEA), (0x8000, 0xEA), (0x8001, 0xEA)]
    { base with p := 0x20 }

/-- T1: the entry and the handler's first instruction in one step (R525, R526). -/
theorem test_T1 : after (step (traced.hostCall .signalIrq)) =
    some ([0x00, 0x00, 0x00, 0xFA, 0x24], 0x9001, [(0x01FD, 0x80), (0x01FC, 0x00), (0x01FB, 0x20)], 9) := by decide

/-- T2: a request is discarded while I = 1 (R521). -/
theorem test_T2 : (State.hostCall { traced with p := 0x24 } .signalIrq).pending = .none := by decide

/-- T3: an NMI takes the place of a pending IRQ (R522, R523). -/
theorem test_T3 : after (step ((traced.hostCall .signalIrq).hostCall .signalNmi)) =
    some ([0x00, 0x00, 0x00, 0xFA, 0x24], 0xA001, [(0x01FD, 0x80), (0x01FC, 0x00), (0x01FB, 0x20)], 9) := by decide

/-- T4: cancel clears an IRQ and leaves an NMI (R524). -/
theorem test_T4 : ((traced.hostCall .signalIrq).hostCall .cancelIrq).pending = .none ∧
    ((traced.hostCall .signalNmi).hostCall .cancelIrq).pending = .nmi := by decide

/-- T5: a stall step leaves PC, `cycles` and the request alone (R133). -/
theorem test_T5 : nextOf (step ((traced.hostCall (.addStall 2)).hostCall .signalIrq))
    (fun t => (t.pc, t.cycles, t.pending, t.stall, t.returned)) = some (0x8000, 0, .irq, 1, 1) := by decide

/-- T6, first step: KIL costs 2 cycles and halts (R353). -/
theorem test_T6_kil : nextOf (step (code [0x02] { traced with a := 0x11 }))
    (fun t => (t.a, t.pc, t.halted, t.returned, t.cycles)) = some (0x11, 0x8001, true, 2, 2) := by decide

/-- T6, reset while halted with a request and a stall: A stays, PC comes from the vector (R560). -/
theorem test_T6_reset :
    let t := State.hostCall { traced with a := 0x11, pc := 0x8001, halted := true, pending := .nmi, stall := 1 } .reset
    (t.a, t.sp, t.p, t.pc, t.halted, t.pending, t.stall) = (0x11, 0xFD, 0x24, 0x8000, false, .none, 0) := by decide

/-- `INT_PUSH_B` and `IRQ_MASK_POINT` away from their defaults (R526, R521, R528). -/
theorem test_parameters_of_delivery :
    let s := { traced with cfg := { Config.default with intPushB := true, irqMaskPoint := .delivery }, p := 0x24 }
    (s.hostCall .signalIrq).pending = .irq ∧ (s.hostCall .signalIrq).entersInterrupt = false ∧
    nextOf (step (s.hostCall .signalNmi)) (fun t => writesOf t.events) =
      some [(0x01FD, 0x80), (0x01FC, 0x00), (0x01FB, 0x34)] := by decide

/-! ### Cartridge and mapper: the vectors of spec/95_test_vectors.md section 3 -/

/-- An array whose bank `i` of `k` bytes begins with the byte `i`. -/
def numbered (k banks : Nat) : Memory := 
  (List.range (banks - 1)).map fun i => (k * (i + 1), BitVec.ofNat 8 (i + 1))

/-- A cartridge with PRG and CHR sizes in 8 KiB and 1 KiB banks, numbered as section 3 says. -/
def cartridge (board : Board) (prgBanks chrBanks : Nat) (initial : Mirroring) : Cartridge :=
  { prg := numbered 8192 prgBanks, prgLen := 8192 * prgBanks, chr := numbered 1024 chrBanks, chrLen := 1024 * chrBanks,
    chrIsRam := false, saveRam := [], dirty := false, mapperId := 0, initialMirroring := initial, battery := false, crc := 0,
    mirroring := initial, board := board, cycleIrq := none, nybble := none }

def mmc1Cart : Cartridge := cartridge (.mmc1 Mmc1.powerOn) 16 128 .horizontal
def mmc3Cart : Cartridge := cartridge (.mmc3 (Mmc3.powerOn Config.default)) 16 64 .horizontal
def nromCart : Cartridge := cartridge .nrom 2 8 .horizontal

/-- What the mapper shows at some addresses. -/
def shows (c : Cartridge) (as : List Word) : List Nat := as.map fun a => (c.read a).toNat

/-- Writes to the mapper, with their events. -/
def writes (c : Cartridge) (ws : List (Word × Byte)) : Cartridge × List BusEvent :=
  ws.foldl (fun q w => ((q.1.write Config.default w.1 w.2).1, q.2 ++ (q.1.write Config.default w.1 w.2).2)) (c, [])

/-- The five writes of a serial load of `v` at `a`. -/
def serial (a : Word) (v : BitVec 5) : List (Word × Byte) :=
  (List.range 5).map fun i => (a, if v.getLsbD i then 1 else 0)

theorem test_M1 : shows mmc1Cart [0x8000, 0xC000] = [0, 14] := by decide

theorem test_M2 : shows (writes mmc1Cart (serial 0xE000 2)).1 [0x8000, 0xC000] = [4, 14] := by decide

theorem test_M3 :
    let q := writes (writes mmc1Cart (serial 0xE000 2)).1 (serial 0x8000 0x08)
    shows q.1 [0x8000, 0xC000] = [0, 4] ∧ q.1.mirroring = .singleScreen0 ∧
    q.2.filter (fun e => e = .mirroringChanged .singleScreen0) = [.mirroringChanged .singleScreen0] := by decide

theorem test_M4 :
    let c := (writes mmc1Cart (serial 0xE000 2 ++ serial 0x8000 0x08)).1
    let d := (writes c [(0x8000, 1), (0x8000, 0), (0x8000, 0x80)]).1
    d.board = .mmc1 { shift := 0, count := 0, control := 0x0C, chr0 := 0, chr1 := 0, prgReg := 2 } ∧
    shows d [0x8000, 0xC000] = [4, 14] ∧ d.mirroring = c.mirroring := by decide

theorem test_M5_M6_M7 :
    let c := (writes mmc1Cart (serial 0xE000 2 ++ serial 0x8000 0x00)).1
    let d := (writes c (serial 0xA000 5)).1
    let e := (writes d (serial 0x8000 0x10 ++ serial 0xC000 7)).1
    shows c [0x8000, 0xC000] = [4, 6] ∧ shows d [0x0000, 0x1000] = [16, 20] ∧ shows e [0x0000, 0x1000] = [20, 28] := by
  decide

theorem test_M8_M9_M10 :
    let c := (writes mmc3Cart [(0x8000, 6), (0x8001, 3), (0x8000, 7), (0x8001, 5)]).1
    let at' : List Word := [0x8000, 0xA000, 0xC000, 0xE000]
    shows mmc3Cart at' = [0, 1, 14, 15] ∧ shows c at' = [3, 5, 14, 15] ∧
    shows (writes c [(0x8000, 0x46)]).1 at' = [14, 5, 3, 15] := by decide

theorem test_M11_M12 :
    let c := (writes mmc3Cart [(0x8000, 0), (0x8001, 9), (0x8000, 1), (0x8001, 0x20), (0x8000, 2), (0x8001, 0x30),
      (0x8000, 3), (0x8001, 0x31), (0x8000, 4), (0x8001, 0x32), (0x8000, 5), (0x8001, 0x33)]).1
    let at' : List Word := [0x0000, 0x0400, 0x0800, 0x0C00, 0x1000, 0x1400, 0x1800, 0x1C00]
    shows c at' = [8, 9, 32, 33, 48, 49, 50, 51] ∧
    shows (writes c [(0x8000, 0x80)]).1 at' = [48, 49, 50, 51, 8, 9, 32, 33] := by decide

theorem test_M13 : shows (writes mmc3Cart [(0x8000, 6), (0x8001, 0x13)]).1 [0x8000] = [3] := by decide

/-- The events of `n` qualifying video steps. -/
def videoSteps (c : Cartridge) : Nat → Cartridge × List BusEvent
  | 0 => (c, [])
  | n + 1 =>
    let q := videoSteps c n
    let r := q.1.stepVideo Config.default (n : Int) 280 true false
    (r.1, q.2 ++ r.2)

/-- M14, the first two periods of the 240 steps: latch 4, an interrupt on every fourth step (R490, R491). -/
theorem test_M14 :
    let c := (writes mmc3Cart [(0xC000, 4), (0xC001, 0), (0xE001, 0)]).1
    (videoSteps c 3).2 = [] ∧ (videoSteps c 4).2 = [.irq] ∧ (videoSteps c 8).2 = [.irq, .irq] := by decide

theorem test_M15_M16 :
    let c := (videoSteps (writes mmc3Cart [(0xC000, 0), (0xC001, 0), (0xE001, 0)]).1 5).1
    (videoSteps (writes mmc3Cart [(0xC000, 0), (0xC001, 0), (0xE001, 0)]).1 5).2 = List.replicate 5 .irq ∧
    c.stepVideo Config.default 10 279 true true = (c, []) ∧ c.stepVideo Config.default 240 280 true true = (c, []) ∧
    c.stepVideo Config.default 10 280 false false = (c, []) := by decide

theorem test_M17 :
    let q := mmc3Cart.write Config.default 0xE000 0
    q.1.board = mmc3Cart.board ∧ q.2 = [.irqAck] := by decide

theorem test_M18 :
    let q := mmc3Cart.write Config.default 0xA000 0
    q.1.mirroring = .vertical ∧ q.2 = [.mirroringChanged .vertical] ∧ (q.1.write Config.default 0xA000 0).2 = [] := by decide

theorem test_M19 :
    let c := cartridge (.mmc3 (Mmc3.powerOn Config.default)) 16 64 .fourScreen
    c.write Config.default 0xA000 0 = (c, []) := by decide

theorem test_M20_M21 : shows nromCart [0x8000, 0xA000, 0xC000, 0xE000] = [0, 1, 0, 1] ∧
    nromCart.write Config.default 0x8000 0x55 = (nromCart, []) := by decide

theorem test_M22 : shows nromCart [0x4123, 0x5FFF] = [0x41, 0x5F] := by decide

theorem test_M23 :
    let c := (nromCart.write Config.default 0x6000 0x12).1
    shows c [0x6000] = [0x12] ∧ c.dirty = true := by decide

theorem test_M24_M25 : nromCart.write Config.default 0x0010 0xAB = (nromCart, []) ∧
    shows (Cartridge.write Config.default { nromCart with chr := [], chrIsRam := true } 0x0010 0xAB).1 [0x0010, 0x0011] =
      [0xAB, 0] := by decide

/-- M26: `setLatch(2)`, `setControl(1)`, then ticks: the counter is 1 at 3, 0 at 6, and the interrupt comes at 9 and at 18. -/
theorem test_M26 :
    let g := (CycleIrq.powerOn.operate .setLatch 2).1
    let h := g.operate .setControl 1
    h.2 = [.irqAck] ∧ (h.1.ticks 3 3).1.counter = 1 ∧ (h.1.ticks 3 6).1.counter = 0 ∧ (h.1.ticks 3 8).2 = [] ∧
    (h.1.ticks 3 9).2 = [.irq] ∧ (h.1.ticks 3 9).1.counter = 2 ∧ (h.1.ticks 3 18).2 = [.irq, .irq] := by decide

theorem test_M27 :
    let low := NybbleRegs.powerOn.writeLow 2 0x05
    low.prgSlot[2] = 0x00 ∧ (low.writeHigh 2 0x0A).prgSlot[2] = 0xA5 := by decide

/-- The register maps that a board with the components would use: a latch at `$F000` and a slot at `$B000` and `$B001`
(R427, R428), chosen here. -/
theorem test_component_register_maps :
    let cfg := { Config.default with
      cycleIrqRegMap := [{ page := 0xF, sel := 0, op := .setLatch }],
      nybbleRegMap := [{ lowAddr := 0xB000, highAddr := 0xB001 }] }
    let c := { nromCart with cycleIrq := some CycleIrq.powerOn, nybble := some NybbleRegs.powerOn }
    (c.write cfg 0xF000 0x07).1.cycleIrq = some { CycleIrq.powerOn with latch := 0x07 } ∧
    ((c.write cfg 0xB000 0x05).1.write cfg 0xB001 0x0A).1.nybble.map (fun r => r.prgSlot[0]) = some 0xA5 := by decide

/-- A header of the given counts and flag bytes. -/
def header (prg chr f6 f7 : Byte) : List Byte :=
  [0x4E, 0x45, 0x53, 0x1A, prg, chr, f6, f7, 0, 0, 0, 0, 0, 0, 0, 0]

theorem test_C2_C3_C5 : loadImage Config.default ([0x4E, 0x45, 0x53, 0x00] ++ (header 1 1 0 0).drop 4) = .error .format ∧
    loadImage Config.default ((header 1 1 0 0).take 15) = .error .format ∧
    loadImage Config.default (header 0 1 0 0) = .error .format := by decide

theorem test_C4 : loadImage Config.default (header 2 0 0 0) = .error .truncated := by decide

theorem test_C7 : (parseHeader (header 1 1 0x01 0)).map Header.mirroring = some .vertical ∧
    (parseHeader (header 1 1 0x09 0)).map Header.mirroring = some .fourScreen ∧
    (parseHeader (header 1 1 0x08 0)).map Header.mirroring = some .fourScreen ∧
    (parseHeader (header 1 1 0x00 0)).map Header.mirroring = some .horizontal := by decide

theorem test_C8_C9 : (parseHeader (header 1 1 0x12 0)).map (fun h => (h.mapperId, h.battery)) = some (1, true) ∧
    (parseHeader (header 1 1 0x40 0)).map (fun h => (h.mapperId, h.battery)) = some (4, false) ∧
    boardFor Config.default 5 = none := by decide

/-- C13: `CRC32("123456789")`. -/
theorem test_C13 : crc32 [0x31, 0x32, 0x33, 0x34, 0x35, 0x36, 0x37, 0x38, 0x39] = 0xCBF43926 := by decide +kernel

/-- P4 of section 4, its fifth write: the bank register is loaded and the next read sees it (R461, R572). -/
theorem test_P4_last_write :
    let c := (writes mmc1Cart [(0xE000, 0), (0xE000, 1), (0xE000, 0), (0xE000, 0)]).1
    let s := code [0x8D, 0x00, 0xE0]
      { base with pc := 0x0210, cfg := { Config.default with bus := consoleBus }, cart := some c }
    nextOf (step s) (fun t => (t.peek 0x8000, t.peek 0xC000, t.peek 0x4123, t.peek 0x0A10)) =
      some (0x04, 0x0E, 0x41, 0x8D) := by decide

/-! ### Devices on the bus (R57, R75, R78, R538) -/

/-- A console: RAM, the video registers and the I/O registers as device windows, the mapper; its next instruction reads or
writes a register. -/
def console : State :=
  { base with
    pc := 0x0200
    p := 0x20
    cfg := { Config.default with
      bus := [{ first := 0x0000, last := 0x1FFF, target := .ram 0x07FF }, { first := 0x2000, last := 0x3FFF, target := .device },
        { first := 0x4000, last := 0x401F, target := .device }, { first := 0x6000, last := 0xFFFF, target := .mapper }] }
    cart := some nromCart }

/-- The reply to an access that no device answers and to which none reacts. -/
def quiet : Reply := { value := 0x00, calls := [] }

/-- `LDA $2002`: the byte comes from the device, and a second read of the same register sees another (R75). -/
theorem test_device_read :
    let s := code [0xAD, 0x02, 0x20, 0xAD, 0x02, 0x20] console
    let one := [quiet, quiet, quiet, { value := 0x80, calls := [] }]
    let two := one ++ [quiet, quiet, quiet, { value := 0x05, calls := [] }]
    nextOf (step (s.hostCall (.devices one))) (fun t => (t.a, t.replies, t.ram == s.ram)) = some (0x80, [], true) ∧
    nextOf (step (s.hostCall (.devices two)))
      (fun t => nextOf (step t) (fun u => (u.a, writesOf u.events))) = some (some (0x05, [])) := by decide

/-- A write of `$4014` by which a device adds 513 stall cycles (R55, R78, R539): the instruction costs 4, and the next step is a
stall step. -/
theorem test_device_stall :
    let s := code [0x8D, 0x14, 0x40] console
    nextOf (step (s.hostCall (.devices [quiet, quiet, quiet, { value := 0x00, calls := [.addStall 513] }])))
      (fun t => (t.returned, t.stall, nextOf (step t) (fun u => (u.returned, u.stall)))) =
      some (4, 513, some (1, 512)) := by decide

/-- A device requests an NMI during a read: the next step enters it (R522, R538). A request of IRQ is discarded while I = 1, and
a cancel later in the same access takes a request back (R521, R524). -/
theorem test_device_requests :
    let s := code [0xAD, 0x02, 0x20] console
    let after := fun (s : State) (calls : List DeviceCall) =>
      nextOf (step (s.hostCall (.devices [quiet, quiet, quiet, { value := 0x00, calls := calls }]))) (fun t => t.pending)
    after s [.signalNmi] = some .nmi ∧ after s [.signalIrq] = some .irq ∧ after s [.signalIrq, .cancelIrq] = some .none ∧
    after { s with p := 0x24 } [.signalIrq] = some .none := by decide

/-- With no reply left a device window reads as open bus (notes 1). -/
theorem test_device_no_reply : nextOf (step (code [0xAD, 0x02, 0x21] console)) (fun t => (t.a, t.pending)) =
    some (0x21, .none) := by decide

/-- `SLO $2007`: the second half reads the register again, and the device answers with another byte (R159, R75). -/
theorem test_device_composition :
    let s := code [0x0F, 0x07, 0x20] console
    let r := [quiet, quiet, quiet, { value := 0x40, calls := [] }, quiet, { value := 0x0A, calls := [] }]
    nextOf (step (s.hostCall (.devices r))) (fun t => (t.a, writesOf t.events, t.replies)) =
      some (0x0A, [(0x2007, 0x80)], []) := by decide

/-! ### Witnesses: the hypotheses of the statements can be met -/

/-- A machine with the console's bus, a number in RAM and the MMC1 cartridge; its next instruction is `LDA #$00` in RAM. -/
def demo : State :=
  code [0xA9, 0x00] { base with pc := 0x0200, cfg := { Config.default with bus := consoleBus }, cart := some mmc1Cart }

theorem mmc1Cart_inv : mmc1Cart.Inv Config.default where
  prg_within     := by decide
  prgLen_pos     := by decide
  prgLen_banks   := by decide
  chr_within     := by decide +kernel
  chrLen_pos     := by decide
  chrLen_banks   := by decide
  saveRam_within := by decide
  header_mode    := by decide
  mode           := by decide
  board          := ⟨by decide, by decide⟩
  prescaler_lt   := by intro g h; exact (Option.some_ne_none g h.symm).elim

theorem demo_inv : demo.Inv where
  ram_within  := by decide
  always_set  := by decide
  break_clear := by decide
  reset_u     := by decide
  reset_b     := by decide
  cart        := by
    intro c h
    obtain rfl : mmc1Cart = c := Option.some.inj h
    exact ⟨mmc1Cart_inv.1, mmc1Cart_inv.2, mmc1Cart_inv.3, mmc1Cart_inv.4, mmc1Cart_inv.5, mmc1Cart_inv.6, mmc1Cart_inv.7,
      mmc1Cart_inv.8, mmc1Cart_inv.9, mmc1Cart_inv.10, mmc1Cart_inv.11⟩

theorem witness_StepKeepsInvariant : demo.Inv ∧ ∃ t, step demo = .next t := ⟨demo_inv, _, rfl⟩

theorem witness_HostCallsKeepInvariant : demo.Inv := demo_inv

theorem witness_StepKeepsProgramStoreAndConfiguration : (∃ t, step demo = .next t) ∧ demo.cart = some mmc1Cart ∧
    (∃ t, step State.reset = .next t) ∧ State.reset.cart = none := ⟨⟨_, rfl⟩, rfl, ⟨_, rfl⟩, rfl⟩

theorem witness_DecodeOfEncode : Instr.wellFormed (.lda (.abx 0xFFFF)) = true := by decide

theorem witness_EncodeOfDecode : decode [0xBD, 0xFF, 0xFF, 0x00] = .ok (.lda (.abx 0xFFFF), [0x00]) := by decide

theorem witness_StepRunsTheDecodedInstruction :
    let s1 := demo.begin.takePending
    let s2 := s1.busRead s1.pc
    let s3 := s2.busRead (s1.pc + 1)
    demo.halted = false ∧ demo.stall = 0 ∧
    decode [s1.peek s1.pc, s2.peek (s1.pc + 1), s3.peek (s1.pc + 2)] = .ok (.lda (.imm 0x00), [0x00]) := by decide

theorem witness_LockUpIsLeftOnlyByReset : State.halted { base with halted := true } = true ∧
    HostCall.signalNmi ≠ .reset ∧ base.halted = false ∧ ∃ t, step base = .next t := ⟨rfl, by decide, rfl, _, rfl⟩

theorem witness_StallStep : base.halted = false ∧ 0 < (base.hostCall (.addStall 1)).stall := by decide

theorem witness_InterruptEntry : (traced.hostCall .signalNmi).entersInterrupt = true ∧
    (traced.hostCall .signalIrq).entersInterrupt = true := by decide

theorem witness_InterruptEntryConditions : base.entersInterrupt = false ∧
    (∃ t, step { base with halted := true } = .next t) ∧ (∃ t, step { base with stall := 1 } = .next t) :=
  ⟨by decide, ⟨_, rfl⟩, ⟨_, rfl⟩⟩

theorem witness_StepReturnsTheCyclesConsumed : (∃ t, step { base with halted := true } = .next t) ∧
    (∃ t, step { base with stall := 1 } = .next t) ∧ ∃ t, step (traced.hostCall .signalIrq) = .next t :=
  ⟨⟨_, rfl⟩, ⟨_, rfl⟩, ⟨_, rfl⟩⟩

/-- The corners of the resolver: the wrap of a zero-page index, the end of the address space, a pointer at the end of a page,
a backward branch over address 0. -/
theorem witness_EffectiveAddresses :
    let s := { base with x := 0xFF, y := 0xFF, pc := 0x0000 }
    (resolve (.zpx 0xFF) s).ea = 0x00FE ∧ (resolve (.abx 0xFFFF) s).ea = 0x00FE ∧ (resolve (.abx 0xFFFF) s).crossed = true ∧
    (resolve (.aby 0x1200) s).crossed = false ∧ nextInPage 0x02FF = 0x0200 ∧ (resolve (.rel 0x80) s).ea = 0xFF82 := by decide

/-- An opcode that pays the page-crossing cycle and two that do not. -/
theorem witness_PageCrossingPenalty : stepCycles (decodeBytes 0xBD 0 0) .perOpcode true = 5 ∧
    stepCycles (decodeBytes 0x9D 0 0) .perOpcode true = 5 ∧ stepCycles (decodeBytes 0x9D 0 0) .uniform true = 6 ∧
    stepCycles (decodeBytes 0xA5 0 0) .uniform true = 3 := by decide

theorem witness_LoadInstructions : Operand.mode (.zpy 0xFF) ≠ .imm := by decide

theorem witness_ShiftsAndRotates : Operand.zp 0x10 ≠ .acc := by decide

theorem witness_ConditionalBranches : base.flag .n = false ∧ base.flag .z ≠ true ∧ base.flag .i = true := by decide

theorem witness_ReturnUndoesEntry :
    let s := { traced with pending := Pending.nmi, sp := 0x01 }
    s.route (stackAddr s.sp) = .ram 0x0101 ∧ s.route (stackAddr (s.sp - 1)) = .ram 0x0100 ∧
    s.route (stackAddr (s.sp - 2)) = .ram 0x01FF ∧ s.entersInterrupt = true := by decide

theorem witness_Compositions : Instr.wellFormed (.slo (.izy 0xFF)) = true ∧ Instr.wellFormed (.rra (.abx 0xFFFF)) = true := by
  decide

theorem witness_KilLocksUp : ∃ t, exec (.kil 11) base = .next t ∧ t.halted ≠ base.halted := ⟨_, rfl, by decide⟩

/-- A store to `$10` in RAM, read back by `LDA $0F,X` with X = 1, by `LDX $10` and by `LDY $10`. -/
theorem witness_StoreIsSeenByTheNextRead :
    let s := { demo with x := 0x01 }
    Instr.wellFormed (.sta (.zp 0x10)) = true ∧ Instr.wellFormed (.lda (.zpx 0x0F)) = true ∧
    Instr.wellFormed (.ldx (.zp 0x10)) = true ∧ Instr.wellFormed (.ldy (.zp 0x10)) = true ∧
    Operand.mode (.zpx 0x0F) ≠ .imm ∧ Operand.mode (.zp 0x10) ≠ .imm ∧ s.route (resolve (.zp 0x10) s).ea = .ram 0x10 ∧
    ∃ t, exec (.sta (.zp 0x10)) s = .next t ∧ (resolve (.zpx 0x0F) t).ea = (resolve (.zp 0x10) s).ea ∧
      (resolve (.zp 0x10) t).ea = (resolve (.zp 0x10) s).ea :=
  ⟨by decide, by decide, by decide, by decide, by decide, by decide, by decide, _, rfl, rfl, rfl⟩

/-- The bounds of the four ranges, and a writable and a read-only character store: by the cartridge, whose store was
synthesized or not, and by `CHR_WRITABLE`. -/
theorem witness_MapperAddressDecode : (0x1FFF : Word).toNat < 0x2000 ∧ 0x2000 ≤ (0x2000 : Word).toNat ∧
    (0x5FFF : Word).toNat < 0x6000 ∧ 0x6000 ≤ (0x6000 : Word).toNat ∧ (0x7FFF : Word).toNat < 0x8000 ∧
    0x8000 ≤ (0x8000 : Word).toNat ∧ mmc1Cart.chrWritable Config.default = false ∧
    mmc1Cart.chrWritable { Config.default with chrWritable := .always } = true ∧
    { nromCart with chrIsRam := true }.chrWritable Config.default = true ∧
    { nromCart with chrIsRam := true }.chrWritable { Config.default with chrWritable := .never } = false := by decide

theorem witness_BankTranslation : mmc1Cart.Inv Config.default ∧ bankIndex (-1) 1 = 0 ∧ bankIndex (-2) 2 = 0 ∧
    bankIndex 19 16 = 3 := ⟨mmc1Cart_inv, by decide, by decide, by decide⟩

/-- The bounds of the NROM-class and MMC1-class windows, in every PRG mode and both CHR modes of the control register. -/
theorem witness_NromAndMmc1Windows :
    let mode := fun v : BitVec 5 =>
      { mmc1Cart with board := .mmc1 { Mmc1.powerOn with control := v, chr0 := 0x03, prgReg := 0x05 } }
    nromCart.board = .nrom ∧ nromCart.cycleIrq = none ∧ nromCart.nybble = none ∧ nromCart.prgLen % 16384 = 0 ∧
    0 < nromCart.prgLen ∧ nromCart.prgOffset 0xFFFF = 0x3FFF ∧ nromCart.chrOffset 0x1FFF = 0x1FFF ∧
    mmc1Cart.board = .mmc1 Mmc1.powerOn ∧ mmc1Cart.prgLen % 16384 = 0 ∧ 0 < mmc1Cart.prgLen ∧
    mmc1Cart.prgOffset 0xBFFF = 0x3FFF ∧ mmc1Cart.prgOffset 0xC000 = 7 * 0x4000 ∧ mmc1Cart.prgOffset 0xFFFF = 0x1FFFF ∧
    ([0x00, 0x04, 0x08, 0x0C] : List (BitVec 5)).map (fun v => ((mode v).prgOffset 0x8000, (mode v).prgOffset 0xC000)) =
      [(4 * 0x4000, 5 * 0x4000), (4 * 0x4000, 5 * 0x4000), (0, 5 * 0x4000), (5 * 0x4000, 7 * 0x4000)] ∧
    (mode 0x00).chrOffset 0x0FFF = 0x2FFF ∧ (mode 0x00).chrOffset 0x1000 = 0x3000 ∧
    (0x10 : BitVec 5).getLsbD 4 = true ∧ (mode 0x10).chrOffset 0x0FFF = 0x3FFF ∧ (mode 0x10).chrOffset 0x1000 = 0 := by decide

/-- Five writes of `$11`, least significant bit first, the last at each register's address; the last write of a serial load that
completes the control register, one that does not, and a reset write. -/
theorem witness_Mmc1SerialWrites :
    let b : Vector Byte 5 := #v[0x01, 0x00, 0x02, 0x7E, 0x01]
    let m : Mmc1 := { Mmc1.powerOn with shift := 0x02, count := 4 }
    let c := { mmc1Cart with board := .mmc1 m }
    Mmc1.powerOn.shift = 0 ∧ Mmc1.powerOn.count = 0 ∧
    (∀ i : Fin 5, b[i].getLsbD 7 = false ∧ b[i].getLsbD 0 = (0x11 : BitVec 5).getLsbD i) ∧
    ([0x8000, 0xA000, 0xC000, 0xE000] : List Word).map (fun a => a.toNat / 0x2000 % 4) = [0, 1, 2, 3] ∧
    (0x80 : Byte).getLsbD 7 = true ∧ Mmc1.powerOn.prgReg = 0 ∧ c.board = .mmc1 m ∧ m.count = 4 ∧
    (c.write Config.default 0x9FFF 0x00).1.mirroring = .vertical ∧
    (c.write Config.default 0xA000 0x00).1.mirroring = .horizontal ∧
    (c.write Config.default 0x8000 0x80).1.mirroring = .horizontal := by decide

/-- The bounds of the MMC3-class windows, in both modes of bits 6 and 7 of the bank select register. -/
theorem witness_Mmc3Windows :
    let mode := fun v : Byte => { mmc3Cart with board := .mmc3 { Mmc3.powerOn Config.default with bankSelect := v } }
    mmc3Cart.board = .mmc3 (Mmc3.powerOn Config.default) ∧
    mmc3Cart.prgLen % 16384 = 0 ∧ 0 < mmc3Cart.prgLen ∧ mmc3Cart.prgOffset 0x9FFF = 0x1FFF ∧
    mmc3Cart.prgOffset 0xA000 = 0x2000 ∧ mmc3Cart.prgOffset 0xC000 = 14 * 0x2000 ∧
    mmc3Cart.prgOffset 0xE000 = 15 * 0x2000 ∧ mmc3Cart.chrOffset 0x0400 = 0x0400 ∧ mmc3Cart.chrOffset 0x1FFF = 0x03FF ∧
    (0x40 : Byte).getLsbD 6 = true ∧ (mode 0x40).prgOffset 0x9FFF = 14 * 0x2000 + 0x1FFF ∧ (mode 0x40).prgOffset 0xC000 = 0 ∧
    (mode 0x40).chrOffset 0x0400 = 0x0400 ∧ (0x80 : Byte).getLsbD 7 = true ∧ (mode 0x80).prgOffset 0xC000 = 14 * 0x2000 ∧
    (mode 0x80).chrOffset 0x0400 = 0 ∧ (mode 0x80).chrOffset 0x1400 = 0x0400 := by
  decide

/-- An address of each register, and the odd one of the bank pair that selects a bank register. -/
theorem witness_Mmc3RegisterWrites : mmc3Cart.board = .mmc3 (Mmc3.powerOn Config.default) ∧ mmc3Cart.cycleIrq = none ∧
    ([0x8000, 0x9FFF, 0xA000, 0xBFFF, 0xC000, 0xDFFF, 0xE000, 0xFFFF] : List Word).map (fun a => a &&& 0xE001) =
      [0x8000, 0x8001, 0xA000, 0xA001, 0xC000, 0xC001, 0xE000, 0xE001] ∧
    (0 : Fin 8).val = (Mmc3.powerOn Config.default).bankSelect.toNat % 8 := by decide

theorem witness_ScanlineInterruptPeriod :
    let m : Mmc3 := { Mmc3.powerOn Config.default with irqReload := true, irqEnable := true, irqLatch := 2 }
    m.irqReload = true ∧ ((m.afterClocks .source 0).clock .source).2 = [] ∧
    ((m.afterClocks .source 1).clock .source).2 = [.irq] ∧ ((m.afterClocks .hardware 2).clock .hardware).2 = [.irq] := by
  decide

theorem witness_VideoStepQualification :
    let s := { demo with cart := some mmc3Cart }
    s.cart = some mmc3Cart ∧ mmc3Cart.board = .mmc3 (Mmc3.powerOn Config.default) ∧ s.cfg.mmc3IrqCycle = 280 ∧
    demo.cart = some mmc1Cart ∧ base.cart = none ∧ (∀ m, mmc1Cart.board ≠ .mmc3 m) :=
  ⟨rfl, rfl, rfl, rfl, rfl, fun _ h => Board.noConfusion h⟩

/-- An enabled and a disabled generator, a cartridge with one that requests in some cycle of the call and in none, and a cartridge
without one. -/
theorem witness_CycleInterruptPeriodAndNybbles :
    let g := (CycleIrq.powerOn.operate .setControl 0x01).1
    let s := { demo with cart := some { mmc1Cart with cycleIrq := some g }, p := 0x20 }
    0 < Config.default.cycleIrqDivide ∧ (0x01 : Byte).getLsbD 0 = true ∧ CycleIrq.powerOn.enabled = false ∧ g.enabled = true ∧
    (s.hostCall (.tickCpu 3)).events = [.irq] ∧ (s.hostCall (.tickCpu 3)).pending = .irq ∧
    (s.hostCall (.tickCpu 2)).events = [] ∧ demo.cart = some mmc1Cart ∧ mmc1Cart.cycleIrq = none := by decide

/-- A whole image of one PRG bank and no CHR bank. -/
def image (f6 f7 : Byte) : List Byte := header 1 0 f6 f7 ++ List.replicate 16384 0xEA

theorem image_length (f6 f7 : Byte) : (image f6 f7).length = 16400 := by
  simp only [image, header, List.length_append, List.length_replicate, List.length_cons, List.length_nil]

theorem witness_LoadErrors_format : ((header 1 0 0 0).take 15).length < 16 ∧
    ((0 : Byte) :: header 1 0 0 0).take 4 ≠ [0x4E, 0x45, 0x53, 0x1A] ∧ 16 ≤ (header 0 0 0 0).length ∧
    (header 0 0 0 0).take 4 = [0x4E, 0x45, 0x53, 0x1A] ∧ (header 0 0 0 0).getD 4 0 = 0 := by decide

theorem witness_LoadErrors_truncated : (header 1 0 0 0).getD 4 0 ≠ 0 ∧ (header 1 0 0 0).length < 16 + 16384 := by decide

theorem witness_LoadErrors_unsupportedMapper :
    16 ≤ (image 0x50 0).length ∧ (image 0x50 0).take 4 = [0x4E, 0x45, 0x53, 0x1A] ∧ (image 0x50 0).getD 4 0 ≠ 0 ∧
    16 + 16384 * ((image 0x50 0).getD 4 0).toNat ≤ (image 0x50 0).length ∧
    (∀ crc, Config.default.mapperFixTable.lookup crc = none) ∧
    ((image 0x50 0).getD 7 0).toNat / 16 * 16 + ((image 0x50 0).getD 6 0).toNat / 16 ∉ [0, 1, 4] ∧
    (∀ crc, { Config.default with mapperFixTable := [(crc, 5)] }.mapperFixTable.lookup crc = some 5) ∧
    ∀ m ∈ { Config.default with supportedMappers := [0, 1] }.supportedMappers, m.toNat ≠ 4 := by
  refine ⟨?_, rfl, by decide, ?_, fun _ => rfl, by decide, fun crc => by simp, by decide⟩ <;> (rw [image_length]; decide)

/-- The mapper id by the header alone, and by a correction table that lists the image's checksum. -/
theorem witness_LoadBuildsTheCartridge :
    (∀ id ∈ [0, 1, 4], ∃ m ∈ base.cfg.supportedMappers, m.toNat = id) ∧
    (∃ m ∈ { Config.default with supportedMappers := [4] }.supportedMappers, m.toNat = 4) ∧ 16 ≤ (image 0x40 0).length ∧
    (image 0x40 0).take 4 = [0x4E, 0x45, 0x53, 0x1A] ∧ (image 0x40 0).getD 4 0 ≠ 0 ∧
    16 + 16384 * ((image 0x40 0).getD 4 0).toNat ≤ (image 0x40 0).length ∧
    (∀ crc, base.cfg.mapperFixTable.lookup crc = none) ∧
    ((image 0x40 0).getD 7 0).toNat / 16 * 16 + ((image 0x40 0).getD 6 0).toNat / 16 ∈ [0, 1, 4] ∧
    ∀ crc, { Config.default with mapperFixTable := [(crc, 1)] }.mapperFixTable.lookup crc = some 1 := by
  refine ⟨by decide, by decide, ?_, rfl, by decide, ?_, fun _ => rfl, by decide, fun crc => by simp⟩ <;> (rw [image_length]; decide)

/-- C13 by the statement's own checksum (R394). -/
theorem test_bitwiseCrc32 : bitwiseCrc32 [0x31, 0x32, 0x33, 0x34, 0x35, 0x36, 0x37, 0x38, 0x39] = 0xCBF43926 := by
  decide +kernel

theorem witness_HostCallsLeaveTheProcessor : HostCall.signalIrq ≠ .reset ∧ HostCall.signalIrq ≠ .addStall 1 ∧
    HostCall.signalIrq ≠ .devices [] ∧ HostCall.addStall 2 ≠ .reset ∧ HostCall.devices [] ≠ .reset ∧
    (traced.hostCall .signalNmi).pending = .nmi := by
  decide

/-- Each kind of route, with and without a reply left, the bounds of the two mapper ranges, and the default bus with and without a
cartridge at the bounds of its windows. -/
theorem witness_BusAccessesAndDeviceReactions :
    let loaded := { base with cart := some nromCart }
    base.cfg.bus = defaultBus ∧ base.cart = none ∧ base.route 0xFFFF = .ram 0xFFFF ∧ loaded.cart = some nromCart ∧
    loaded.route 0x5FFF = .ram 0x5FFF ∧ loaded.route 0x6000 = .mapper nromCart ∧ loaded.route 0x7FFF = .mapper nromCart ∧
    loaded.route 0x8000 = .mapper nromCart ∧ loaded.route 0xFFFF = .mapper nromCart ∧
    console.route 0x0810 = .ram 0x10 ∧ console.route 0x2002 = .device ∧ console.route 0x4123 = .unclaimed ∧
    console.route 0x6000 = .mapper nromCart ∧ console.replies = [] ∧
    (console.setReplies [{ value := 0x80, calls := [.signalNmi] }]).replies ≠ [] := by decide

end Sys2Proof.Tests
end

section
/-! PROOFS. Every step keeps the invariant of the machine, and with it the program store, what the header fixed and the
parameters: one relation between states, `Keeps`, which every shared operation and so every instruction meets. -/

namespace Sys2Proof.Machine

/-! ### What no operation of the processor may change -/

/-- What a load fixes for good: the program store, the sizes of the arrays and what the header says
(spec/50_cartridge.md R387, R388, spec/51_mapper_common.md R414). -/
def Cartridge.fixed (c : Cartridge) : Memory × Nat × Nat × Bool × Byte × Mirroring × Bool × BitVec 32 :=
  (c.prg, c.prgLen, c.chrLen, c.chrIsRam, c.mapperId, c.initialMirroring, c.battery, c.crc)

/-- From s to t the parameters and what the load fixed are unchanged, and the invariant is kept. -/
structure Keeps (s t : State) : Prop where
  cfg   : t.cfg = s.cfg
  fixed : t.cart.map Cartridge.fixed = s.cart.map Cartridge.fixed
  inv   : s.Inv → t.Inv

theorem Keeps.refl (s : State) : Keeps s s := ⟨rfl, rfl, id⟩

theorem Keeps.trans {s t u : State} (h : Keeps s t) (k : Keeps t u) : Keeps s u :=
  ⟨k.cfg.trans h.cfg, k.fixed.trans h.fixed, k.inv ∘ h.inv⟩

/-- The invariant speaks of storage, parameters and two bits of P only. -/
theorem State.Inv.of_kept {s t : State} (h : s.Inv) (k : StorageKept s t) (hu : t.flag .u = true) (hb : t.flag .b = false) :
    t.Inv where
  ram_within  := by rw [k.ram]; exact h.ram_within
  always_set  := hu
  break_clear := hb
  reset_u     := by rw [k.cfg]; exact h.reset_u
  reset_b     := by rw [k.cfg]; exact h.reset_b
  cart        := by rw [k.cart, k.cfg]; exact h.cart

/-- An operation that stores nothing and leaves P with bit 5 set and bit 4 clear. -/
theorem Keeps.store_nothing {s t u : State} (h : Keeps s t) (k : StorageKept t u) (hu : t.flag .u = true → u.flag .u = true)
    (hb : t.flag .b = false → u.flag .b = false) : Keeps s u :=
  h.trans ⟨k.cfg, by rw [k.cart], fun i => i.of_kept k (hu i.always_set) (hb i.break_clear)⟩

/-! ### Registers and flags -/

/-- A write of a field that neither the storage nor P is. -/
theorem Keeps.of_eq {s t u : State} (h : Keeps s t) (hr : u.ram = t.ram) (hc : u.cart = t.cart) (hg : u.cfg = t.cfg)
    (hp : u.p = t.p) : Keeps s u := by
  have hf : ∀ f, u.flag f = t.flag f := fun f => by rw [State.flag, hp, State.flag]
  exact h.store_nothing (.of_eq hr hc hg) (by rw [hf]; exact id) (by rw [hf]; exact id)

section
variable {s t : State} (h : Keeps s t)
include h

theorem Keeps.setA (v : Byte) : Keeps s (t.setA v) := h.of_eq rfl rfl rfl rfl
theorem Keeps.setX (v : Byte) : Keeps s (t.setX v) := h.of_eq rfl rfl rfl rfl
theorem Keeps.setY (v : Byte) : Keeps s (t.setY v) := h.of_eq rfl rfl rfl rfl
theorem Keeps.setSp (v : Byte) : Keeps s (t.setSp v) := h.of_eq rfl rfl rfl rfl
theorem Keeps.setPc (v : Word) : Keeps s (t.setPc v) := h.of_eq rfl rfl rfl rfl
theorem Keeps.setStall (n : Nat) : Keeps s (t.setStall n) := h.of_eq rfl rfl rfl rfl
theorem Keeps.setPending (k : Pending) : Keeps s (t.setPending k) := h.of_eq rfl rfl rfl rfl
theorem Keeps.setHalted (b : Bool) : Keeps s (t.setHalted b) := h.of_eq rfl rfl rfl rfl
theorem Keeps.setReturned (n : BitVec 64) : Keeps s (t.setReturned n) := h.of_eq rfl rfl rfl rfl
theorem Keeps.setEvents (es : List BusEvent) : Keeps s (t.setEvents es) := h.of_eq rfl rfl rfl rfl
theorem Keeps.charge (n : Nat) : Keeps s (t.charge n) := h.of_eq rfl rfl rfl rfl

/-- A flag byte that keeps bits 5 and 4 of P. -/
theorem Keeps.setP (v : Byte) (hu : getFlag v .u = getFlag t.p .u) (hb : getFlag v .b = getFlag t.p .b) :
    Keeps s (t.setP v) :=
  h.store_nothing (.of_eq rfl rfl rfl) hu.trans hb.trans

theorem Keeps.setFlag (f : Flag) (v : Bool) (hu : f ≠ .u) (hb : f ≠ .b) : Keeps s (t.setFlag f v) :=
  h.setP _ (by rw [getFlag_putFlag, if_neg hu.symm]) (by rw [getFlag_putFlag, if_neg hb.symm])

theorem Keeps.setNZ (v : Byte) : Keeps s (t.setNZ v) := h.setP _ (getFlag_putNZ ..) (getFlag_putNZ ..)

/-- A pulled flag byte has bit 5 set and bit 4 clear, whatever was pulled (spec/10_state.md R41, R42). -/
theorem Keeps.setP_pulledFlags (v : Byte) : Keeps s (t.setP (pulledFlags v)) :=
  h.store_nothing (.of_eq rfl rfl rfl) (fun _ => getFlag_pulledFlags v .u) (fun _ => getFlag_pulledFlags v .b)

/-! ### Reads and writes of the bus -/

theorem Keeps.busReads (as : List Word) : Keeps s (t.busReads as) :=
  h.of_eq (by simp) (by simp) (by simp) (by simp)

theorem Keeps.advance (i : Instr) : Keeps s (t.advance i) :=
  h.of_eq (by simp) (by simp) (by simp) (by simp)

theorem Keeps.afterOperand (o : Operand) (r : Resolved) : Keeps s (afterOperand o r t) :=
  h.of_eq (by simp) (by simp) (by simp) (by simp)

theorem Keeps.pop : Keeps s t.pop := h.of_eq rfl rfl rfl rfl

theorem Keeps.pop16 : Keeps s t.pop16 := h.pop.pop

end

/-- A RAM window answers with a cell of the address space. -/
theorem routeIn_ram_lt {bus : List BusWindow} {cart : Option Cartridge} {a : Word} {k : Nat}
    (h : routeIn bus cart a = .ram k) : k < 65536 := by
  induction bus with
  | nil => cases h
  | cons w ws ih =>
    unfold routeIn at h
    split at h
    · split at h
      · cases h; exact BitVec.isLt _
      · cases h
      · exact ih h
      · cases h
    · exact ih h

/-- A write stores into RAM below its bound. -/
theorem State.ramAfter_within {s : State} (h : s.ram.within 65536 = true) (a : Word) (v : Byte) :
    (s.ramAfter a v).within 65536 = true := by
  unfold State.ramAfter
  split
  · next k hk => exact Memory.within_write h (routeIn_ram_lt hk)
  all_goals exact h

/-- A write gives the bus no other cartridge than the mapper's write of its own makes. -/
theorem State.cartAfter_cases (s : State) (a : Word) (v : Byte) :
    s.cartAfter a v = s.cart ∨ ∃ c, s.cart = some c ∧ s.cartAfter a v = some (c.write s.cfg a v).1 := by
  unfold State.cartAfter
  split
  · next c hc => exact .inr ⟨c, State.route_mapper hc, rfl⟩
  all_goals exact .inl rfl

theorem Cartridge.write_fixed (cfg : Config) (c : Cartridge) (a : Word) (v : Byte) : (c.write cfg a v).1.fixed = c.fixed := by
  simp [Cartridge.fixed, Cartridge.write_static cfg c a v]

theorem Keeps.busWrite {s t : State} (h : Keeps s t) (a : Word) (v : Byte) : Keeps s (t.busWrite a v) := by
  refine h.trans ⟨rfl, ?_, fun i => ⟨State.ramAfter_within i.ram_within a v, i.always_set, i.break_clear, i.reset_u,
    i.reset_b, ?_⟩⟩
  · rw [State.busWrite_cart]
    obtain hc | ⟨c, hc, hd⟩ := t.cartAfter_cases a v
    · rw [hc]
    · rw [hc, hd, Option.map_some, Option.map_some, Cartridge.write_fixed]
  · rw [State.busWrite_cart, State.busWrite_cfg]
    obtain hc | ⟨c, hc, hd⟩ := t.cartAfter_cases a v
    · rw [hc]; exact i.cart
    · rw [hd]
      rintro _ ⟨⟩
      exact Cartridge.write_inv _ _ _ _ (i.cart c hc)

/-! ### The operations made of them -/

section
variable {s t : State} (h : Keeps s t)
include h

theorem Keeps.push (v : Byte) : Keeps s (t.push v) := (h.busWrite _ _).setSp _

theorem Keeps.push16 (w : Word) : Keeps s (t.push16 w) := (h.push _).push _

theorem Keeps.enterException (w : Word) (f : Byte) (vec : Word) : Keeps s (t.enterException w f vec) :=
  ((((h.push16 w).push f).setFlag .i true nofun nofun).busReads _).setPc _

theorem Keeps.returnFromException : Keeps s t.returnFromException := (h.pop.setP_pulledFlags _).pop16.setPc _

theorem Keeps.writeBack (o : Operand) (r : Resolved) (v : Byte) : Keeps s (writeBack o r v t) := by
  cases o with
  | acc => exact h.setA v
  | _ => exact h.busWrite _ v

/-- Step 2 of a step (spec/40_step_and_addressing.md R134). -/
theorem Keeps.takePending : Keeps s t.takePending := by
  unfold State.takePending
  split
  · exact ((h.enterException _ _ _).charge 7).setPending _
  · exact h

end

/-! ### The execution functions -/

/-- An execution function keeps what `Keeps` says, from whatever state it runs on. -/
def EffectKeeps (effect : Resolved → State → State) : Prop := ∀ r s, Keeps s (effect r s)

/-- An effect that goes on with the value of its operand. -/
theorem withOperand_keeps {o : Operand} {k : Byte → State → State} (hk : ∀ m s, Keeps s (k m s)) :
    EffectKeeps fun r => withOperand o r k :=
  fun r s => ((Keeps.refl s).afterOperand o r).trans (hk _ _)

theorem nop_keeps : EffectKeeps fun _ s => s := fun _ s => .refl s

theorem loadA_keeps (o : Operand) : EffectKeeps (loadA o) :=
  withOperand_keeps fun m s => ((Keeps.refl s).setA m).setNZ m

theorem loadX_keeps (o : Operand) : EffectKeeps (loadX o) :=
  withOperand_keeps fun m s => ((Keeps.refl s).setX m).setNZ m

theorem loadY_keeps (o : Operand) : EffectKeeps (loadY o) :=
  withOperand_keeps fun m s => ((Keeps.refl s).setY m).setNZ m

theorem addA_keeps (o : Operand) : EffectKeeps (addA o) :=
  withOperand_keeps fun _ s => ((Keeps.refl s).setA _).setP _ (getFlag_putArith ..) (getFlag_putArith ..)

theorem subA_keeps (o : Operand) : EffectKeeps (subA o) :=
  withOperand_keeps fun _ s => ((Keeps.refl s).setA _).setP _ (getFlag_putArith ..) (getFlag_putArith ..)

theorem andA_keeps (o : Operand) : EffectKeeps (andA o) :=
  withOperand_keeps fun _ s => ((Keeps.refl s).setA _).setNZ _

theorem orA_keeps (o : Operand) : EffectKeeps (orA o) :=
  withOperand_keeps fun _ s => ((Keeps.refl s).setA _).setNZ _

theorem xorA_keeps (o : Operand) : EffectKeeps (xorA o) :=
  withOperand_keeps fun _ s => ((Keeps.refl s).setA _).setNZ _

theorem compareWith_keeps (reg : State → Byte) (o : Operand) : EffectKeeps (compareWith reg o) :=
  withOperand_keeps fun _ s => (Keeps.refl s).setP _ (getFlag_putCmp ..) (getFlag_putCmp ..)

theorem bitTest_keeps (o : Operand) : EffectKeeps (bitTest o) :=
  withOperand_keeps fun _ s => (Keeps.refl s).setP _ (getFlag_putBit ..) (getFlag_putBit ..)

theorem incM_keeps (o : Operand) : EffectKeeps (incM o) :=
  fun r s => (((Keeps.refl s).afterOperand o r).busWrite _ _).setNZ _

theorem decM_keeps (o : Operand) : EffectKeeps (decM o) :=
  fun r s => (((Keeps.refl s).afterOperand o r).busWrite _ _).setNZ _

theorem shiftM_keeps (f : Byte → Bool → ShiftOut) (o : Operand) : EffectKeeps (shiftM f o) :=
  fun r s => ((((Keeps.refl s).afterOperand o r).setFlag .c _ nofun nofun).writeBack o r _).setNZ _

theorem andThen_keeps {f g : Operand → Resolved → State → State} {o : Operand} (hf : EffectKeeps (f o))
    (hg : EffectKeeps (g o)) : EffectKeeps (andThen f g o) :=
  fun r s => (hf r s).trans (hg r _)

theorem busWrite_keeps (v : Resolved → State → Byte) : EffectKeeps fun r s => s.busWrite r.ea (v r s) :=
  fun _ s => (Keeps.refl s).busWrite _ _

theorem setFlag_keeps (f : Flag) (v : Bool) (hu : f ≠ .u) (hb : f ≠ .b) : EffectKeeps fun _ s => s.setFlag f v :=
  fun _ s => (Keeps.refl s).setFlag f v hu hb

theorem branchIf_keeps (f : Flag) (want : Bool) : EffectKeeps (branchIf f want) := by
  intro r s
  unfold branchIf
  split
  · exact ((Keeps.refl s).charge _).setPc _
  · exact .refl s

/-! ### The instructions -/

/-- Resolving, advancing and charging keep what the effect keeps. -/
theorem perform_keeps {i : Instr} {effect : Resolved → State → State} (h : EffectKeeps effect) {s t : State}
    (ht : perform i effect s = .next t) : Keeps s t := by
  cases ht
  exact ((Keeps.refl s).advance i).trans (h _ _)

/-- Every instruction, well formed or not. -/
theorem exec_keeps (i : Instr) {s t : State} (h : exec i s = .next t) : Keeps s t := by
  cases i with
  | lda o => exact perform_keeps (loadA_keeps o) h
  | ldx o => exact perform_keeps (loadX_keeps o) h
  | ldy o => exact perform_keeps (loadY_keeps o) h
  | sta o => exact perform_keeps (busWrite_keeps fun _ s => s.a) h
  | stx o => exact perform_keeps (busWrite_keeps fun _ s => s.x) h
  | sty o => exact perform_keeps (busWrite_keeps fun _ s => s.y) h
  | tax => exact perform_keeps (fun _ s => ((Keeps.refl s).setX _).setNZ _) h
  | tay => exact perform_keeps (fun _ s => ((Keeps.refl s).setY _).setNZ _) h
  | txa => exact perform_keeps (fun _ s => ((Keeps.refl s).setA _).setNZ _) h
  | tya => exact perform_keeps (fun _ s => ((Keeps.refl s).setA _).setNZ _) h
  | tsx => exact perform_keeps (fun _ s => ((Keeps.refl s).setX _).setNZ _) h
  | txs => exact perform_keeps (fun _ s => (Keeps.refl s).setSp _) h
  | adc o => exact perform_keeps (addA_keeps o) h
  | sbc o => exact perform_keeps (subA_keeps o) h
  | and o => exact perform_keeps (andA_keeps o) h
  | ora o => exact perform_keeps (orA_keeps o) h
  | eor o => exact perform_keeps (xorA_keeps o) h
  | cmp o => exact perform_keeps (compareWith_keeps State.a o) h
  | cpx o => exact perform_keeps (compareWith_keeps State.x o) h
  | cpy o => exact perform_keeps (compareWith_keeps State.y o) h
  | bit o => exact perform_keeps (bitTest_keeps o) h
  | inc o => exact perform_keeps (incM_keeps o) h
  | dec o => exact perform_keeps (decM_keeps o) h
  | inx => exact perform_keeps (fun _ s => ((Keeps.refl s).setX _).setNZ _) h
  | iny => exact perform_keeps (fun _ s => ((Keeps.refl s).setY _).setNZ _) h
  | dex => exact perform_keeps (fun _ s => ((Keeps.refl s).setX _).setNZ _) h
  | dey => exact perform_keeps (fun _ s => ((Keeps.refl s).setY _).setNZ _) h
  | asl o => exact perform_keeps (shiftM_keeps _ o) h
  | lsr o => exact perform_keeps (shiftM_keeps _ o) h
  | rol o => exact perform_keeps (shiftM_keeps _ o) h
  | ror o => exact perform_keeps (shiftM_keeps _ o) h
  | bpl _ => exact perform_keeps (branchIf_keeps .n false) h
  | bmi _ => exact perform_keeps (branchIf_keeps .n true) h
  | bvc _ => exact perform_keeps (branchIf_keeps .v false) h
  | bvs _ => exact perform_keeps (branchIf_keeps .v true) h
  | bcc _ => exact perform_keeps (branchIf_keeps .c false) h
  | bcs _ => exact perform_keeps (branchIf_keeps .c true) h
  | bne _ => exact perform_keeps (branchIf_keeps .z false) h
  | beq _ => exact perform_keeps (branchIf_keeps .z true) h
  | jmp o => exact perform_keeps (fun r s => (Keeps.refl s).setPc r.ea) h
  | jsr w => exact perform_keeps (fun r s => ((Keeps.refl s).push16 (s.pc - 1)).setPc r.ea) h
  | rts => exact perform_keeps (fun _ s => (Keeps.refl s).pop16.setPc _) h
  | brk => exact perform_keeps (fun _ s => (Keeps.refl s).enterException (s.pc + 1) (pushedBySoftware s.p) s.cfg.vecIrq) h
  | rti => exact perform_keeps (fun _ s => (Keeps.refl s).returnFromException) h
  | pha => exact perform_keeps (fun _ s => (Keeps.refl s).push s.a) h
  | pla => exact perform_keeps (fun _ s => ((Keeps.refl s).pop.setA _).setNZ _) h
  | php => exact perform_keeps (fun _ s => (Keeps.refl s).push (pushedBySoftware s.p)) h
  | plp => exact perform_keeps (fun _ s => (Keeps.refl s).pop.setP_pulledFlags _) h
  | clc => exact perform_keeps (setFlag_keeps .c false nofun nofun) h
  | sec => exact perform_keeps (setFlag_keeps .c true nofun nofun) h
  | cli => exact perform_keeps (setFlag_keeps .i false nofun nofun) h
  | sei => exact perform_keeps (setFlag_keeps .i true nofun nofun) h
  | clv => exact perform_keeps (setFlag_keeps .v false nofun nofun) h
  | cld => exact perform_keeps (setFlag_keeps .d false nofun nofun) h
  | sed => exact perform_keeps (setFlag_keeps .d true nofun nofun) h
  | nop => exact perform_keeps nop_keeps h
  | slo o => exact perform_keeps (andThen_keeps (shiftM_keeps _ o) (orA_keeps o)) h
  | rla o => exact perform_keeps (andThen_keeps (shiftM_keeps _ o) (andA_keeps o)) h
  | sre o => exact perform_keeps (andThen_keeps (shiftM_keeps _ o) (xorA_keeps o)) h
  | rra o => exact perform_keeps (andThen_keeps (shiftM_keeps _ o) (addA_keeps o)) h
  | dcp o => exact perform_keeps (andThen_keeps (decM_keeps o) (compareWith_keeps State.a o)) h
  | isc o => exact perform_keeps (andThen_keeps (incM_keeps o) (subA_keeps o)) h
  | sax o => exact perform_keeps (busWrite_keeps fun _ s => s.a &&& s.x) h
  | lax o => exact perform_keeps (withOperand_keeps fun m s => (((Keeps.refl s).setA m).setX m).setNZ m) h
  | anc row b =>
    exact perform_keeps (withOperand_keeps fun _ s => (((Keeps.refl s).setA _).setNZ _).setFlag .c _ nofun nofun) h
  | alr b =>
    exact perform_keeps
      (withOperand_keeps fun _ s => ((Keeps.refl s).setA _).setP _ (getFlag_putCNZ ..) (getFlag_putCNZ ..)) h
  | arr b =>
    exact perform_keeps (withOperand_keeps fun _ s =>
      ((((Keeps.refl s).setA _).setNZ _).setFlag .c _ nofun nofun).setFlag .v _ nofun nofun) h
  | axs b =>
    exact perform_keeps
      (withOperand_keeps fun _ s => ((Keeps.refl s).setX _).setP _ (getFlag_putCmp ..) (getFlag_putCmp ..)) h
  | xaa b => exact perform_keeps (withOperand_keeps fun _ s => ((Keeps.refl s).setA _).setNZ _) h
  | ahx o => exact perform_keeps (busWrite_keeps fun r s => s.a &&& s.x &&& storeMask r) h
  | shx w => exact perform_keeps (busWrite_keeps fun r s => s.x &&& storeMask r) h
  | shy w => exact perform_keeps (busWrite_keeps fun r s => s.y &&& storeMask r) h
  | tas w => exact perform_keeps (fun _ s => ((Keeps.refl s).setSp _).busWrite _ _) h
  | las w => exact perform_keeps (withOperand_keeps fun _ s => ((((Keeps.refl s).setA _).setX _).setSp _).setNZ _) h
  | sbcDup b => exact perform_keeps (subA_keeps (.imm b)) h
  | nopImp _ => exact perform_keeps nop_keeps h
  | nopImm _ _ => exact perform_keeps nop_keeps h
  | nopZp _ _ => exact perform_keeps nop_keeps h
  | nopZpx _ _ => exact perform_keeps nop_keeps h
  | nopAbs _ => exact perform_keeps nop_keeps h
  | nopAbx _ _ => exact perform_keeps nop_keeps h
  | kil _ => exact perform_keeps (fun _ s => (Keeps.refl s).setHalted true) h

/-! ### The step -/

/-- What a step can be (spec/40_step_and_addressing.md R131): a halted step, a stall step, or the instruction that the fetch
finds after step 2. -/
theorem step_cases {s t : State} (h : step s = .next t) :
    (s.halted = true ∧ t = s.haltedStep) ∨ (s.halted = false ∧ s.stall ≠ 0 ∧ t = s.stallStep) ∨
    (s.halted = false ∧ s.stall = 0 ∧ ∃ u,
      exec s.begin.takePending.fetchInstr s.begin.takePending.fetched = .next u ∧ t = u.finish s.cycles) := by
  unfold step at h
  split at h
  · next hh => cases h; exact .inl ⟨hh, rfl⟩
  · next hh =>
    rw [Bool.not_eq_true] at hh
    split at h
    · next hn => cases h; exact .inr (.inl ⟨hh, hn, rfl⟩)
    · next hn =>
      dsimp only at h
      split at h
      · next u hu => cases h; exact .inr (.inr ⟨hh, not_not.mp hn, u, hu, rfl⟩)
      · cases h
      · cases h

theorem step_keeps {s t : State} (h : step s = .next t) : Keeps s t := by
  have hs : Keeps s s.begin := (Keeps.refl s).setEvents []
  obtain ⟨-, rfl⟩ | ⟨-, -, rfl⟩ | ⟨-, -, u, hu, rfl⟩ := step_cases h
  · exact hs.setReturned 0
  · exact (hs.setStall _).setReturned 1
  · exact ((hs.takePending.busReads _).trans (exec_keeps _ hu)).setReturned _

/-- Settles O5: a step is made of operations that keep the invariant. -/
theorem stepKeepsInvariant : Obligations.StepKeepsInvariant :=
  fun _ _ hs h => (step_keeps h).inv hs

/-- Settles O7: no operation of a step changes the parameters or what the load fixed. -/
theorem stepKeepsProgramStoreAndConfiguration : Obligations.StepKeepsProgramStoreAndConfiguration := by
  intro s t h
  obtain ⟨hg, hf, -⟩ := step_keeps h
  refine ⟨hg, fun hs => ?_, fun c hs => ?_⟩
  · rw [hs] at hf
    exact Option.map_eq_none_iff.mp hf
  · rw [hs] at hf
    obtain ⟨d, hd, he⟩ := Option.map_eq_some_iff.mp hf
    exact ⟨d, hd, by simpa [Cartridge.fixed] using he⟩

/-- Settles O2: RAM lists nothing, no cartridge is loaded, and `RESET_P` is `$24`. -/
theorem resetMeetsInvariant : Obligations.ResetMeetsInvariant :=
  ⟨rfl, rfl, rfl, rfl, rfl, fun c h => by cases h⟩

end Sys2Proof.Machine
end

section
/-! PROOFS. What a host call other than `reset()` leaves of the processor (spec/70_reset_and_hazards.md R576). -/

namespace Sys2Proof.Machine

/-! ### A pending NMI stays (spec/60_exceptions.md R521, R523, R524) -/

@[simp] theorem requestIrq_nmi (point : IrqMaskPoint) (masked : Bool) : requestIrq point masked .nmi = .nmi := by
  cases point <;> simp [requestIrq]

@[simp] theorem acknowledgeIrq_nmi : acknowledgeIrq .nmi = .nmi := rfl

theorem foldl_pendingAfterEvent_nmi (point : IrqMaskPoint) (masked : Bool) (es : List BusEvent) :
    es.foldl (pendingAfterEvent point masked) .nmi = .nmi := by
  induction es with
  | nil => rfl
  | cons e es ih =>
    have he : pendingAfterEvent point masked .nmi e = .nmi := by cases e <;> simp [pendingAfterEvent]
    rw [List.foldl_cons, he, ih]

theorem State.eventsPending_nmi {s : State} (h : s.pending = .nmi) (es : List BusEvent) : s.eventsPending es = .nmi := by
  rw [State.eventsPending, h, foldl_pendingAfterEvent_nmi]

/-! ### What a host call can do -/

/-- A cartridge operation of the host changes the cartridge and delivers the mapper's events, or does nothing. -/
theorem State.withCart_cases (s : State) (f : Cartridge → Cartridge × List BusEvent) :
    ∃ es c k, s.withCart f = { s with events := es, cart := c, pending := k } ∧ (s.pending = .nmi → k = .nmi) := by
  unfold State.withCart
  split
  · exact ⟨_, _, _, rfl, fun hk => State.eventsPending_nmi (s := s.setCart _) hk _⟩
  · exact ⟨_, _, _, rfl, id⟩

/-- A load changes the cartridge, or nothing when it fails (spec/50_cartridge.md R397, R398). -/
theorem State.load_cases (s : State) (image : List Byte) : ∃ c, s.load image = { s with cart := c } := by
  unfold State.load
  split
  · exact ⟨_, rfl⟩
  · exact ⟨_, rfl⟩

/-- From s to t at most the events, the cartridge, the pending request, the stall counter and the replies have changed: a pending
NMI is pending still, only `addStall` has changed the stall counter, and only `devices` the replies. -/
def HostCall.Frame (call : HostCall) (s t : State) : Prop :=
  ∃ es c k n rs, t = { s with events := es, cart := c, pending := k, stall := n, replies := rs } ∧
    (s.pending = .nmi → k = .nmi) ∧ ((∀ m, call ≠ .addStall m) → n = s.stall) ∧
    ((∀ qs, call ≠ .devices qs) → rs = s.replies)

theorem State.withCart_frame (s : State) (call : HostCall) (f : Cartridge → Cartridge × List BusEvent) :
    call.Frame s (s.begin.withCart f) := by
  obtain ⟨es, c, k, hf, hk⟩ := s.begin.withCart_cases f
  exact ⟨es, c, k, _, _, hf, hk, fun _ => rfl, fun _ => rfl⟩

theorem State.hostCall_frame (s : State) {call : HostCall} (h : call ≠ .reset) : call.Frame s (s.hostCall call) := by
  cases call with
  | reset => exact absurd rfl h
  | signalNmi => exact ⟨_, _, _, _, _, rfl, fun _ => rfl, fun _ => rfl, fun _ => rfl⟩
  | signalIrq =>
    exact ⟨_, _, requestIrq _ _ s.pending, _, _, rfl, fun hk => by rw [hk, requestIrq_nmi], fun _ => rfl, fun _ => rfl⟩
  | cancelIrq =>
    exact ⟨_, _, acknowledgeIrq s.pending, _, _, rfl, fun hk => by rw [hk, acknowledgeIrq_nmi], fun _ => rfl, fun _ => rfl⟩
  | addStall n => exact ⟨_, _, _, _, _, rfl, id, fun hn => absurd rfl (hn n), fun _ => rfl⟩
  | devices rs => exact ⟨_, _, _, _, _, rfl, id, fun _ => rfl, fun hn => absurd rfl (hn rs)⟩
  | load image =>
    obtain ⟨c, hc⟩ := s.begin.load_cases image
    exact ⟨_, c, _, _, _, hc, id, fun _ => rfl, fun _ => rfl⟩
  | stepVideo | tickCpu | mapperWrite | restoreSaveRam | clearDirty => exact s.withCart_frame _ _

/-- Settles O59: the frame of a host call, and the three clauses that say what a call does. -/
theorem hostCallsLeaveTheProcessor : Obligations.HostCallsLeaveTheProcessor := by
  intro s call h t
  obtain ⟨es, c, k, n, rs, ht, hk, hn, hrs⟩ := s.hostCall_frame h
  replace ht : t = _ := ht
  have hregs : RegsKept [] s t := fun r _ => by rw [ht]; cases r <;> rfl
  refine ⟨hregs, ?pc, ?p, ?cycles, ?ram, ?cfg, ?returned, ?halted, ?stall, ?addStall, ?cart, ?devices, ?replies, ?nmi⟩
  case cart =>
    cases call with
    | reset => exact absurd rfl h
    | signalNmi | signalIrq | cancelIrq | addStall | devices => rfl
    | stepVideo | tickCpu | mapperWrite | load | restoreSaveRam | clearDirty => trivial
  case addStall => rintro m rfl; rfl
  case devices => rintro qs rfl; rfl
  case stall => rw [ht]; exact hn
  case replies => rw [ht]; exact hrs
  case nmi => rw [ht]; exact hk
  all_goals rw [ht]

end Sys2Proof.Machine
end

section
/-! PROOFS. What one access of the bus does: the devices' calls one after another, the default bus, open bus. -/

namespace Sys2Proof.Machine

/-! ### The devices' calls -/

/-- What one call of a device makes of the pending request and the stall counter, in the terms of the claim (spec/60_exceptions.md
R521, R522, R524, R538), with the mask rule written out. -/
def afterCall (point : IrqMaskPoint) (masked : Bool) (q : Pending × Nat) (call : DeviceCall) : Pending × Nat :=
  match call with
  | .signalNmi => (.nmi, q.2)
  | .signalIrq => (if q.1 = .nmi ∨ (point = .request ∧ masked = true) then q.1 else .irq, q.2)
  | .cancelIrq => (if q.1 = .irq then .none else q.1, q.2)
  | .addStall n => (q.1, q.2 + n)

theorem requestIrq_eq (point : IrqMaskPoint) (masked : Bool) (k : Pending) :
    requestIrq point masked k = if k = .nmi ∨ (point = .request ∧ masked = true) then k else .irq := by
  cases point <;> cases masked <;> cases k <;> simp [requestIrq]

theorem afterCall_eq (point : IrqMaskPoint) (masked : Bool) (q : Pending × Nat) (call : DeviceCall) :
    afterCall point masked q call = (pendingAfterCall point masked q.1 call, stallAfterCall q.2 call) := by
  cases call with
  | signalIrq => simp only [afterCall, pendingAfterCall, stallAfterCall, requestIrq_eq]
  | _ => rfl

theorem foldl_afterCall (point : IrqMaskPoint) (masked : Bool) (calls : List DeviceCall) (k : Pending) (n : Nat) :
    calls.foldl (afterCall point masked) (k, n) =
      (calls.foldl (pendingAfterCall point masked) k, calls.foldl stallAfterCall n) := by
  induction calls generalizing k n with
  | nil => rfl
  | cons c cs ih => rw [List.foldl_cons, afterCall_eq, ih, List.foldl_cons, List.foldl_cons]

/-- In t the devices have reacted to an access of s with their next reply, from the pending request k on. -/
structure Reacted (k : Pending) (s t : State) : Prop where
  pending : t.pending = s.reactPending k
  stall   : t.stall = s.reactStall
  replies : t.replies = s.replies.tail

/-- Where no reply is left no device reacts. -/
theorem Reacted.of_no_reply {k : Pending} {s t : State} (h : Reacted k s t) (hs : s.replies = []) :
    t.pending = k ∧ t.stall = s.stall ∧ t.replies = [] := by
  obtain ⟨hp, hn, hr⟩ := h
  rw [hp, hn, hr]
  unfold State.reactPending State.reactStall State.nextCalls
  rw [hs]
  exact ⟨rfl, rfl, rfl⟩

/-- The next reply is used up and its calls take effect in order. -/
theorem Reacted.of_reply {k : Pending} {s t : State} (h : Reacted k s t) {r : Reply} {rs : List Reply}
    (hs : s.replies = r :: rs) : t.replies = rs ∧
      (t.pending, t.stall) = r.calls.foldl (afterCall s.cfg.irqMaskPoint (s.flag .i)) (k, s.stall) := by
  obtain ⟨hp, hn, hr⟩ := h
  rw [hp, hn, hr, foldl_afterCall]
  unfold State.reactPending State.reactStall State.nextCalls
  rw [hs]
  exact ⟨rfl, rfl⟩

theorem State.busRead_reacted (s : State) (a : Word) : Reacted s.pending s (s.busRead a) := ⟨rfl, rfl, rfl⟩

theorem State.busWrite_reacted (s : State) (a : Word) (v : Byte) :
    Reacted (if .irqAck ∈ s.mapperEvents a v then acknowledgeIrq s.pending else s.pending) s (s.busWrite a v) :=
  ⟨s.busWrite_pending a v, rfl, rfl⟩

/-! ### What answers, and with which byte -/

/-- The open-bus byte (spec/20_memory.md R79). -/
theorem hi_eq_ofNat (w : Word) : hi w = BitVec.ofNat 8 (w.toNat / 256) :=
  BitVec.eq_of_toNat_eq (by
    rw [hi_toNat, BitVec.toNat_ofNat, Nat.mod_eq_of_lt (by have := w.isLt; omega)])

theorem Cartridge.read_prg (c : Cartridge) {a : Word} (h : 0x8000 ≤ a.toNat) : c.read a = c.prg.read (c.prgOffset a.toNat) := by
  rw [Cartridge.read, if_neg (by omega), if_neg (by omega), if_neg (by omega)]

theorem Cartridge.read_saveRam (c : Cartridge) {a : Word} (h : 0x6000 ≤ a.toNat) (h' : a.toNat < 0x8000) :
    c.read a = c.saveRam.read (a.toNat - 0x6000) := by
  rw [Cartridge.read, if_neg (by omega), if_neg (by omega), if_pos h']

/-- A device window where no reply is left is open bus (notes 1). -/
theorem State.peek_device_no_reply {s : State} {a : Word} (h : s.route a = .device) (hs : s.replies = []) :
    s.peek a = hi a := by
  unfold State.peek State.nextDeviceByte
  rw [h, hs]

/-- The second window of the default bus holds every address. -/
theorem word_in_range (a : Word) : 0x0000 ≤ a ∧ a ≤ 0xFFFF := by
  have ha := a.isLt
  exact ⟨BitVec.le_def.mpr (Nat.zero_le _), BitVec.le_def.mpr (by show a.toNat ≤ 65535; omega)⟩

theorem word_and_mask (a : Word) : a &&& 0xFFFF = a := BitVec.and_allOnes

/-- With no cartridge the default bus is RAM (notes 1). -/
theorem routeIn_defaultBus_none (a : Word) : routeIn defaultBus none a = .ram a.toNat := by
  simp only [routeIn, defaultBus, word_in_range, word_and_mask, and_self, if_true, ite_self]

/-- With a cartridge its mapper answers from `$6000` on (notes 1). -/
theorem routeIn_defaultBus_some (c : Cartridge) (a : Word) :
    routeIn defaultBus (some c) a = if 0x6000 ≤ a.toNat then .mapper c else .ram a.toNat := by
  have hfirst : (0x6000 ≤ a) ↔ 0x6000 ≤ a.toNat := BitVec.le_def
  simp only [routeIn, defaultBus, word_in_range, word_and_mask, hfirst, and_true, and_self, if_true]

/-- Settles O60: what a read and a write of the bus show, store and leave, with the reactions said one call at a time. -/
theorem busAccessesAndDeviceReactions : Obligations.BusAccessesAndDeviceReactions := by
  intro s a v called reacts mapperEvents
  have hcalled : called = afterCall s.cfg.irqMaskPoint (s.flag .i) := by
    funext q call
    cases call <;> rfl
  have hreacts : ∀ k t, Reacted k s t → RegsKept [] s t → t.p = s.p → t.pc = s.pc → t.cycles = s.cycles →
      ControlKept s t → reacts k t := by
    intro k t h hregs hp hpc hcy hctl
    refine ⟨hregs, hp, hpc, hcy, hctl, h.of_no_reply, fun r rs hs => ?_⟩
    rw [hcalled]
    exact h.of_reply hs
  have hevents : mapperEvents = s.mapperEvents a v := by
    show (match s.route a with | .mapper c => _ | _ => _) = _
    unfold State.mapperEvents
    cases s.route a <;> rfl
  have hack : (if .irqAck ∈ mapperEvents ∧ s.pending = .irq then .none else s.pending) =
      if .irqAck ∈ s.mapperEvents a v then acknowledgeIrq s.pending else s.pending := by
    rw [hevents, acknowledgeIrq, ite_and]
  refine ⟨?read, s.access_kept _, rfl, fun k => State.peek_ram, ?peekMapper, ?defaultRoute, ?peekUnclaimed, ?peekDevice, ?write,
    s.busWrite_stored a v, ?events⟩
  case read =>
    exact hreacts _ _ (s.busRead_reacted a) (fun r _ => by simp) rfl rfl rfl ⟨rfl, rfl, rfl⟩
  case peekMapper =>
    intro c hc
    rw [State.peek_mapper hc]
    exact ⟨State.route_mapper hc, rfl, c.read_prg, c.read_saveRam⟩
  case defaultRoute =>
    intro hbus
    unfold State.route
    rw [hbus]
    refine ⟨fun hc => ?_, fun c hc => ?_⟩
    · rw [hc, routeIn_defaultBus_none]
    · rw [hc, routeIn_defaultBus_some]
  case peekUnclaimed => exact fun h => (State.peek_unclaimed h).trans (hi_eq_ofNat a)
  case peekDevice =>
    intro h
    cases hs : s.replies with
    | nil => exact (State.peek_device_no_reply h hs).trans (hi_eq_ofNat a)
    | cons r rs => exact State.peek_device h hs
  case write =>
    rw [hack]
    exact hreacts _ _ (s.busWrite_reacted a v) (fun r _ => by simp) rfl rfl rfl ⟨rfl, rfl, rfl⟩
  case events => rw [State.busWrite_events, hevents]

end Sys2Proof.Machine
end

section
/-! PROOFS. A byte stored in RAM is what a load of its address reads (spec/20_memory.md R85, R572). -/

namespace Sys2Proof.Machine

/-- A well-formed instruction has none of the modes that the opcode map does not give it. -/
theorem mode_ne_of_wellFormed {i : Instr} {o : Operand} {ms : List Mode} {m : Mode} (h : i.wellFormed = true)
    (hi : i.modes = some (o, ms)) (hm : m ∉ ms) : o.mode ≠ m := by
  rintro rfl
  unfold Instr.wellFormed at h
  rw [hi] at h
  exact hm (List.contains_iff_mem.mp h)

/-- In a memory mode the operand is the byte at the effective address (spec/00_scope.md R15). -/
theorem operandValue_eq_peek {o : Operand} (himm : o.mode ≠ .imm) (hacc : o.mode ≠ .acc) (r : Resolved) (s : State) :
    operandValue o r s = s.peek r.ea := by
  cases o with
  | imm b => exact absurd rfl himm
  | acc => exact absurd rfl hacc
  | _ => rfl

/-- After a store in RAM its address is answered by RAM still, with the byte stored. -/
theorem Stored.peek_ram {a : Word} {v : Byte} {k : Nat} {s t : State} (h : Stored a v s t) (hr : s.route a = .ram k) :
    t.route a = .ram k ∧ t.peek a = v := by
  obtain ⟨hcfg, h⟩ := h
  rw [hr] at h
  obtain ⟨-, hcart, hpeek⟩ := h
  refine ⟨(State.route_congr hcart hcfg a).trans hr, ?_⟩
  rw [hpeek a (by simp [hr]), if_pos hr]

/-! ### What STA stores and what the loads leave (spec/42_load_store_transfer.md R200 to R203) -/

theorem exec_sta (o : Operand) (s : State) :
    exec (.sta o) s = .next ((s.advance (.sta o)).busWrite (resolve o s).ea s.a) := by
  rw [← s.advance_a (.sta o)]
  rfl

theorem exec_sta_stored (o : Operand) (s : State) :
    ∃ t, exec (.sta o) s = .next t ∧ Stored (resolve o s).ea s.a s t :=
  ⟨_, exec_sta o s, (State.busWrite_stored _ _ _).congr (s.advance_kept _).symm (.refl _)⟩

theorem exec_lda_a (o : Operand) (s : State) :
    ∃ t, exec (.lda o) s = .next t ∧ t.a = operandValue o (resolve o s) (s.afterPointer o) :=
  ⟨_, rfl, operandValue_advance o _ s (.lda o)⟩

theorem exec_ldx_x (o : Operand) (s : State) :
    ∃ t, exec (.ldx o) s = .next t ∧ t.x = operandValue o (resolve o s) (s.afterPointer o) :=
  ⟨_, rfl, operandValue_advance o _ s (.ldx o)⟩

theorem exec_ldy_y (o : Operand) (s : State) :
    ∃ t, exec (.ldy o) s = .next t ∧ t.y = operandValue o (resolve o s) (s.afterPointer o) :=
  ⟨_, rfl, operandValue_advance o _ s (.ldy o)⟩

/-- Settles O47: STA leaves the byte at the address, and the pointer reads of the load before its operand read store nothing. -/
theorem storeIsSeenByTheNextRead : Obligations.StoreIsSeenByTheNextRead := by
  intro s o q k _ himm hram
  obtain ⟨t, ht, hstored⟩ := exec_sta_stored o s
  refine ⟨t, ht, fun hea => ?_⟩
  obtain ⟨hroute, hpeek⟩ := hstored.peek_ram hram
  have hread : q.mode ≠ .acc → operandValue q (resolve q t) (t.afterPointer q) = s.a := by
    intro hacc
    rw [operandValue_eq_peek himm hacc, hea, (t.afterPointer_kept q).bytes _ (by simp [hroute]), hpeek]
  refine ⟨fun hw => ?lda, fun hw => ?ldx, fun hw => ?ldy⟩
  case lda =>
    obtain ⟨u, hu, ha⟩ := exec_lda_a q t
    exact ⟨u, hu, ha.trans (hread (mode_ne_of_wellFormed hw rfl (by decide)))⟩
  case ldx =>
    obtain ⟨u, hu, hx⟩ := exec_ldx_x q t
    exact ⟨u, hu, hx.trans (hread (mode_ne_of_wellFormed hw rfl (by decide)))⟩
  case ldy =>
    obtain ⟨u, hu, hy⟩ := exec_ldy_y q t
    exact ⟨u, hu, hy.trans (hread (mode_ne_of_wellFormed hw rfl (by decide)))⟩

end Sys2Proof.Machine
end

section
/-! PROOFS. The decoder and the encoder (spec/30_encoding.md). Encoding then decoding goes by the instruction: its opcode selects
the cell that built it. Decoding then encoding goes by the opcode map: the opcode byte alone fixes everything but the operand
bytes. -/

namespace Sys2Proof.Machine

/-! ### Operand bytes (spec/30_encoding.md R100, R103) -/

theorem length_operandBytes (o : Operand) : o.bytes.length = o.length := by cases o <;> rfl

/-- An operand is what its mode reads from any bytes that begin with its own. -/
theorem operandOf_bytes_append (o : Operand) (rest : List Byte) :
    operandOf o.mode ((o.bytes ++ rest).getD 0 0) ((o.bytes ++ rest).getD 1 0) = o := by
  cases o with
  | abs w | abx w | aby w | ind w => simp [operandOf, Operand.mode, Operand.bytes]
  | _ => rfl

/-- What a mode reads from a list that is long enough are the bytes at its head. -/
theorem bytes_operandOf (m : Mode) (l : List Byte) (h : (operandOf m (l.getD 0 0) (l.getD 1 0)).length ≤ l.length) :
    (operandOf m (l.getD 0 0) (l.getD 1 0)).bytes = l.take (operandOf m (l.getD 0 0) (l.getD 1 0)).length := by
  cases m with
  | imp | acc => rfl
  | imm | zp | zpx | zpy | izx | izy | rel =>
    obtain _ | ⟨b, l⟩ := l
    · cases h
    · rfl
  | abs | abx | aby | ind =>
    obtain _ | ⟨b, _ | ⟨c, l⟩⟩ := l
    · cases h
    · cases h.not_gt (by decide : 1 < 2)
    · simp [operandOf, Operand.bytes, Operand.length]

/-! ### From the instruction to its cell -/

/-- Where the opcode list covers the modes of the opcode map, every operand of one of them has an opcode. -/
theorem exists_rowOf {o : Operand} {ms : List Mode} {rows : List (Mode × Byte)} (h : ms.contains o.mode = true)
    (hms : ms ⊆ rows.map Prod.fst) : ∃ op, rowOf o rows = some op := by
  obtain ⟨r, hr, hm⟩ := List.mem_map.mp (hms (List.contains_iff_mem.mp h))
  exact Option.isSome_iff_exists.mp (List.lookup_isSome_iff.mpr ⟨r, hr, beq_iff_eq.mpr hm.symm⟩)

/-- The opcode map has a cell for every well-formed instruction (spec/30_encoding.md R104). -/
theorem exists_opcode {i : Instr} (h : i.wellFormed = true) : ∃ op, i.opcode = some op := by
  cases i with
  | lda | ldx | ldy | sta | stx | sty | adc | sbc | and | ora | eor | cmp | cpx | cpy | bit | inc | dec | asl | lsr | rol
  | ror | jmp | slo | rla | sre | rra | dcp | isc | sax | lax | ahx => exact exists_rowOf h (by decide)
  | anc row | nopImp row | nopImm row | nopZp row | nopZpx row | nopAbx row | kil row =>
    exact ⟨_, List.getElem?_eq_getElem row.isLt⟩
  | _ => exact ⟨_, rfl⟩

/-- An opcode list whose cells build the same instruction `f` with their own modes. -/
theorem decodeBytes_of_rowOf {o : Operand} {rows : List (Mode × Byte)} {op b1 b2 : Byte} {f : Operand → Instr}
    (h : rowOf o rows = some op) (ho : operandOf o.mode b1 b2 = o)
    (hrows : rows.map (fun r => decodeBytes r.2) = rows.map fun r b1 b2 => f (operandOf r.1 b1 b2)) :
    decodeBytes op b1 b2 = f o := by
  obtain ⟨l, l', rfl, -⟩ := List.lookup_eq_some_iff.mp h
  have hcell := List.map_inj_left.mp hrows (o.mode, op) (by simp)
  rw [congrFun (congrFun hcell b1) b2, ho]

/-- The opcode of an instruction selects its cell: with the bytes of its operand, the cell builds the instruction. -/
theorem decodeBytes_of_opcode {i : Instr} {op b1 b2 : Byte} (h : i.opcode = some op)
    (ho : operandOf i.operand.mode b1 b2 = i.operand) : decodeBytes op b1 b2 = i := by
  cases i with
  | lda | ldx | ldy | sta | stx | sty | adc | sbc | and | ora | eor | cmp | cpx | cpy | bit | inc | dec | asl | lsr | rol
  | ror | jmp | slo | rla | sre | rra | dcp | isc | sax | lax | ahx => exact decodeBytes_of_rowOf h ho rfl
  | anc row | nopImp row | nopImm row | nopZp row | nopZpx row | nopAbx row | kil row =>
    fin_cases row <;> cases h <;> cases ho <;> rfl
  | _ => cases h; cases ho; rfl

theorem encode_of_opcode {i : Instr} {op : Byte} (h : i.opcode = some op) : encode i = op :: i.operand.bytes := by
  rw [encode, h]

theorem decode_cons (op : Byte) (l : List Byte) :
    decode (op :: l) =
      let i := decodeBytes op (l.getD 0 0) (l.getD 1 0)
      if i.operand.length ≤ l.length then .ok (i, l.drop i.operand.length) else .error .operandMissing := rfl

/-- Settles O8: the opcode selects the cell that builds the instruction, and the cell reads the operand back. -/
theorem decodeOfEncodeIsTheInstruction : Obligations.DecodeOfEncodeIsTheInstruction := by
  intro i rest h
  obtain ⟨op, hop⟩ := exists_opcode h
  have hi : decodeBytes op ((i.operand.bytes ++ rest).getD 0 0) ((i.operand.bytes ++ rest).getD 1 0) = i :=
    decodeBytes_of_opcode hop (operandOf_bytes_append i.operand rest)
  have hlen : i.operand.length ≤ (i.operand.bytes ++ rest).length := by
    rw [List.length_append, length_operandBytes]
    exact Nat.le_add_right ..
  rw [encode_of_opcode hop, List.cons_append, decode_cons, hi]
  dsimp only
  rw [if_pos hlen, ← length_operandBytes, List.drop_left]

/-! ### From the opcode byte to the instruction -/

/-- What the opcode table says of an instruction. -/
def tableRow (i : Instr) : OpcodeTable.Row := (i.mnemonic, i.operand.mode, i.baseCycles, i.pagePenalty)

/-- The rows of the opcode table, sixteen opcodes to a list. -/
def OpcodeTable.rows : List (List OpcodeTable.Row) :=
  [row0, row1, row2, row3, row4, row5, row6, row7, row8, row9, rowA, rowB, rowC, rowD, rowE, rowF]

/-- The row of an opcode byte. -/
def OpcodeTable.rowAt (op : Byte) : OpcodeTable.Row :=
  (OpcodeTable.rows.getD (op.toNat / 16) []).getD (op.toNat % 16) (tableRow .nop)

/-- Looking a place up in a grid commutes with a map over its entries. -/
theorem getD_getD_map {α β : Type} (f : α → β) (grid : List (List α)) (r k : ℕ) (d : α) :
    ((grid.map (·.map f)).getD r []).getD k (f d) = f ((grid.getD r []).getD k d) := by
  rw [← List.map_nil (f := f), List.getD_map grid [] (List.map f), List.getD_map]

/-- What can be read off the cells of the opcode map can be read off the decoded instruction. -/
theorem decodeBytes_of_map {α : Type} (g : Instr → α) (op b1 b2 : Byte) :
    g (decodeBytes op b1 b2) = ((Cell.map.map (·.map fun c b1 b2 => g (c b1 b2))).getD (op.toNat / 16) []).getD
      (op.toNat % 16) (fun _ _ => g .nop) b1 b2 :=
  (congrFun₂ (getD_getD_map (fun c b1 b2 => g (c b1 b2)) Cell.map _ _ (Cell.imp .nop)) b1 b2).symm

/-- Cell by cell: the opcode table gives mnemonic, mode and cost, the operand bytes only fill in the operand, and the instruction
is well formed (spec/30_encoding.md R104, R105). -/
theorem map_tableRow :
    Cell.map.map (·.map fun c b1 b2 => (tableRow (c b1 b2), (c b1 b2).operand, (c b1 b2).wellFormed)) =
      OpcodeTable.rows.map (·.map fun row b1 b2 => (row, operandOf row.2.1 b1 b2, true)) := (rfl)

/-- Cell by cell: the opcode of the instruction is the place of the cell in the map. -/
theorem map_opcode :
    Cell.map.map (·.map fun c b1 b2 => (c b1 b2).opcode) =
      (List.range 16).map fun r => (List.range 16).map fun k _ _ => some (BitVec.ofNat 8 (16 * r + k)) := (rfl)

/-- The opcode byte alone determines the row of the table; the operand bytes fill in the operand. -/
theorem decodeBytes_row (op b1 b2 : Byte) :
    tableRow (decodeBytes op b1 b2) = OpcodeTable.rowAt op ∧
      (decodeBytes op b1 b2).operand = operandOf (OpcodeTable.rowAt op).2.1 b1 b2 ∧
      (decodeBytes op b1 b2).wellFormed = true := by
  have hcell := decodeBytes_of_map (fun i => (tableRow i, i.operand, i.wellFormed)) op b1 b2
  rw [map_tableRow] at hcell
  have hrow := hcell.trans (congrFun₂ (getD_getD_map (fun row b1 b2 => (row, operandOf row.2.1 b1 b2, true))
    OpcodeTable.rows _ _ (tableRow .nop)) b1 b2)
  simp only [Prod.mk.injEq] at hrow
  exact hrow

theorem opcode_decodeBytes (op b1 b2 : Byte) : (decodeBytes op b1 b2).opcode = some op := by
  have hr : op.toNat / 16 < 16 := by have := op.isLt; omega
  have hk : op.toNat % 16 < 16 := Nat.mod_lt _ (by decide)
  rw [decodeBytes_of_map Instr.opcode, map_opcode]
  simp [List.getD_eq_getElem?_getD, hr, hk, Nat.div_add_mod]

/-- Settles O9: a decoded instruction carries the opcode byte and the operand bytes it was read from. -/
theorem encodeOfDecodeIsTheBytes : Obligations.EncodeOfDecodeIsTheBytes := by
  intro bytes rest i h
  obtain _ | ⟨op, l⟩ := bytes
  · cases h
  · rw [decode_cons] at h
    dsimp only at h
    split at h
    · next hlen =>
      cases h
      obtain ⟨-, hoperand, hwf⟩ := decodeBytes_row op (l.getD 0 0) (l.getD 1 0)
      refine ⟨hwf, ?_⟩
      rw [hoperand] at hlen
      rw [encode_of_opcode (opcode_decodeBytes ..), hoperand, bytes_operandOf _ _ hlen, List.cons_append,
        List.take_append_drop]
    · cases h

/-- The size of an instruction, "determined solely by addressing mode" (spec/30_encoding.md R101). -/
def modeSize : Mode → ℕ
  | .imp | .acc => 1
  | .imm | .zp | .zpx | .zpy | .izx | .izy | .rel => 2
  | .abs | .abx | .aby | .ind => 3

theorem size_eq_modeSize (i : Instr) : i.size = modeSize i.operand.mode := by
  unfold Instr.size
  cases i.operand <;> rfl

theorem modeSize_le (m : Mode) : modeSize m ≤ 3 := by cases m <;> decide

/-- Three bytes are enough for any opcode. -/
theorem decode_three (op b1 b2 : Byte) (rest : List Byte) :
    decode (op :: b1 :: b2 :: rest) =
      .ok (decodeBytes op b1 b2, (op :: b1 :: b2 :: rest).drop (decodeBytes op b1 b2).size) := by
  have hsize : 1 + (decodeBytes op b1 b2).operand.length ≤ 3 := (size_eq_modeSize _).trans_le (modeSize_le _)
  have hlen : (decodeBytes op b1 b2).operand.length ≤ (b1 :: b2 :: rest).length := by
    simp only [List.length_cons]
    omega
  rw [Instr.size, Nat.add_comm, List.drop_succ_cons]
  exact if_pos hlen

/-- Settles O11: the row of the opcode byte, and the operand bytes that its mode asks for. -/
theorem decodingIsTotalAndSizedByMode : Obligations.DecodingIsTotalAndSizedByMode := by
  refine ⟨fun op b1 b2 rest => ?_, fun i => ?_⟩
  · obtain ⟨hrow, -, hwf⟩ := decodeBytes_row op b1 b2
    have hsame : tableRow (decodeBytes op b1 b2) = tableRow (decodeBytes op 0 0) :=
      hrow.trans (decodeBytes_row op 0 0).1.symm
    have hmode := congrArg (·.2.1) hsame
    have hsize : (decodeBytes op b1 b2).size = (decodeBytes op 0 0).size := by
      rw [size_eq_modeSize, size_eq_modeSize]
      exact congrArg modeSize hmode
    exact ⟨hwf, opcode_decodeBytes .., congrArg (·.1) hsame, hmode, hsize, decode_three ..⟩
  · rw [size_eq_modeSize]
    cases i.operand.mode <;> rfl

/-! ### The opcode table -/

/-- Counting in rows of `n`. -/
theorem range_mul (m n : ℕ) :
    List.range (m * n) = ((List.range m).map fun r => (List.range n).map (n * r + ·)).flatten := by
  induction m with
  | zero => simp
  | succ m ih => rw [Nat.succ_mul, List.range_add, ih, List.range_succ, Nat.mul_comm m]; simp

theorem rowAt_rows :
    (List.range 16).map (fun r => (List.range 16).map fun k => OpcodeTable.rowAt (BitVec.ofNat 8 (16 * r + k))) =
      OpcodeTable.rows := (rfl)

/-- Settles O10: the row of every opcode byte, in rows of sixteen. -/
theorem opcodeMapIsTheTable : Obligations.OpcodeMapIsTheTable := by
  show (List.range (16 * 16)).map (fun n => tableRow (decodeBytes (BitVec.ofNat 8 n) 0 0)) = _
  simp only [fun n => (decodeBytes_row (BitVec.ofNat 8 n) 0 0).1, range_mul, List.map_flatten, List.map_map, Function.comp_def]
  rw [rowAt_rows]
  simp only [OpcodeTable.rows, List.flatten_cons, List.flatten_nil, List.append_nil, OpcodeTable.all, List.append_assoc]

/-- Settles O12: each word runs through the map. -/
theorem decodeWords : Obligations.DecodeWords :=
  ⟨rfl, rfl, rfl, rfl, rfl, rfl, rfl, rfl, rfl, rfl, rfl, rfl, rfl⟩

end Sys2Proof.Machine
end

section
/-! PROOFS. No step stops, and only KIL locks up (spec/60_exceptions.md R530, R532, spec/46_undocumented.md R353). -/

namespace Sys2Proof.Machine

/-! ### Every instruction completes -/

/-- Every instruction is `perform` around its execution function, which faults nowhere. -/
theorem exec_completes (i : Instr) (s : State) : ∃ t, exec i s = .next t := by
  cases i <;> exact ⟨_, rfl⟩

/-- Settles O4: halted and stall steps have a next state, and so has every instruction. -/
theorem stepNeverStops : Obligations.StepNeverStops := by
  intro s
  unfold step
  split
  · exact ⟨_, rfl⟩
  split
  · exact ⟨_, rfl⟩
  · obtain ⟨t, ht⟩ := exec_completes s.begin.takePending.fetchInstr s.begin.takePending.fetched
    dsimp only
    rw [ht]
    exact ⟨_, rfl⟩

/-! ### The lock-up state -/

/-- An execution function that does not write the lock-up state. -/
def HaltedKept (effect : Resolved → State → State) : Prop := ∀ r s, (effect r s).halted = s.halted

theorem withOperand_halted {o : Operand} {k : Byte → State → State} (hk : ∀ m s, (k m s).halted = s.halted) :
    HaltedKept fun r => withOperand o r k :=
  fun r s => (hk _ _).trans (afterOperand_halted o r s)

theorem writeBack_halted (o : Operand) (r : Resolved) (v : Byte) (s : State) : (writeBack o r v s).halted = s.halted := by
  cases o <;> rfl

theorem shiftM_halted (f : Byte → Bool → ShiftOut) (o : Operand) : HaltedKept (shiftM f o) :=
  fun r s => (writeBack_halted o r _ _).trans (afterOperand_halted o r s)

theorem decM_halted (o : Operand) : HaltedKept (decM o) := withOperand_halted fun _ _ => rfl

theorem incM_halted (o : Operand) : HaltedKept (incM o) := withOperand_halted fun _ _ => rfl

theorem andThen_halted {f g : Operand → Resolved → State → State} {o : Operand} (hf : HaltedKept (f o))
    (hg : HaltedKept (g o)) : HaltedKept (andThen f g o) :=
  fun r s => (hg r _).trans (hf r s)

theorem branchIf_halted (f : Flag) (want : Bool) : HaltedKept (branchIf f want) := by
  intro r s
  unfold branchIf
  split <;> rfl

/-- No instruction but KIL writes the lock-up state. -/
theorem exec_halted {i : Instr} (hi : ∀ row, i ≠ .kil row) {s t : State} (h : exec i s = .next t) : t.halted = s.halted := by
  have hadvance := s.advance_halted i
  cases i with
  | lda | ldx | ldy | adc | sbc | and | ora | eor | cmp | cpx | cpy | bit | inc | dec | lax | anc | alr | arr | axs | xaa | las
  | sbcDup => cases h; exact Eq.trans (withOperand_halted (fun _ _ => rfl) _ _) hadvance
  | asl | lsr | rol | ror => cases h; exact Eq.trans (shiftM_halted _ _ _ _) hadvance
  | bpl | bmi | bvc | bvs | bcc | bcs | bne | beq => cases h; exact Eq.trans (branchIf_halted _ _ _ _) hadvance
  | slo | rla | sre | rra =>
    cases h
    exact Eq.trans (andThen_halted (shiftM_halted _ _) (withOperand_halted fun _ _ => rfl) _ _) hadvance
  | dcp => cases h; exact Eq.trans (andThen_halted (decM_halted _) (withOperand_halted fun _ _ => rfl) _ _) hadvance
  | isc => cases h; exact Eq.trans (andThen_halted (incM_halted _) (withOperand_halted fun _ _ => rfl) _ _) hadvance
  | kil row => exact absurd rfl (hi row)
  | _ => cases h; simp

/-- A halted step (spec/40_step_and_addressing.md R132). -/
theorem step_of_halted {s : State} (h : s.halted = true) : step s = .next s.haltedStep := if_pos h

/-- Settles O46: KIL makes no access beyond its fetch and writes nothing but PC, the cycle counter and the lock-up state. -/
theorem kilLocksUpAndNothingElseDoes : Obligations.KilLocksUpAndNothingElseDoes := by
  refine ⟨fun _ _ => rfl, fun row s => ?_, fun i s t h hne => ?_⟩
  · have halike : BusAlike s ((s.advance (.kil row)).setHalted true) :=
      (State.advance_alike_self (.kil row) rfl).setHalted true
    exact ⟨_, rfl, rfl, rfl, rfl, fun r _ => by simp, fun f _ => rfl, halike.kept, halike.outside, rfl, step_of_halted rfl⟩
  · by_contra hkil
    exact hne (exec_halted (not_exists.mp hkil) h)

end Sys2Proof.Machine
end

section
/-! PROOFS. The unstable opcodes in the fixed meaning the model takes (spec/46_undocumented.md R338, R343 to R347; notes 7). -/

namespace Sys2Proof.Machine

/-- The rows of an instruction, read off the opcode map and the descriptor at once. -/
theorem Opcodes.of_map {f : Operand → Instr} {rows : List (Byte × Mode × Nat × Bool)}
    (h : rows.map (fun r b1 b2 => (decodeBytes r.1 b1 b2, (f (operandOf r.2.1 b1 b2)).opcode,
        (f (operandOf r.2.1 b1 b2)).baseCycles, (f (operandOf r.2.1 b1 b2)).pagePenalty)) =
      rows.map fun r b1 b2 => (f (operandOf r.2.1 b1 b2), some r.1, r.2.2.1, r.2.2.2)) : Opcodes f rows := by
  intro b1 b2 r hr
  have hrow := congrFun₂ (List.map_inj_left.mp h r hr) b1 b2
  simp only [Prod.mk.injEq] at hrow
  exact hrow

theorem State.setNZ_nzOf (s : State) (v : Byte) : NZOf v (s.setNZ v) := ⟨by simp, by simp [bit7]⟩

theorem Advanced.of_eq {i : Instr} {s t u : State} (h : Advanced i s t) (hpc : u.pc = t.pc) (hc : u.cycles = t.cycles) :
    Advanced i s u :=
  ⟨hpc.trans h.pc, hc.trans h.cycles⟩

/-! ### What is kept of registers and flags, write by write -/

section
variable {ws : List Reg} {s t : State} (h : RegsKept ws s t)
include h

theorem RegsKept.setA (hw : .a ∈ ws) (v : Byte) : RegsKept ws s (t.setA v) := fun r hr => by
  rw [State.setA_reg, if_neg (ne_of_mem_of_not_mem hw hr).symm, h r hr]

theorem RegsKept.setX (hw : .x ∈ ws) (v : Byte) : RegsKept ws s (t.setX v) := fun r hr => by
  rw [State.setX_reg, if_neg (ne_of_mem_of_not_mem hw hr).symm, h r hr]

theorem RegsKept.setSp (hw : .sp ∈ ws) (v : Byte) : RegsKept ws s (t.setSp v) := fun r hr => by
  rw [State.setSp_reg, if_neg (ne_of_mem_of_not_mem hw hr).symm, h r hr]

theorem RegsKept.setNZ (v : Byte) : RegsKept ws s (t.setNZ v) := fun r hr => by rw [State.setNZ_reg, h r hr]

theorem RegsKept.busWrite (a : Word) (v : Byte) : RegsKept ws s (t.busWrite a v) := fun r hr => by
  rw [State.busWrite_reg, h r hr]

end

section
variable {ws : List Flag} {s t : State} (h : FlagsKept ws s t)
include h

theorem FlagsKept.setA (v : Byte) : FlagsKept ws s (t.setA v) := h

theorem FlagsKept.setX (v : Byte) : FlagsKept ws s (t.setX v) := h

theorem FlagsKept.setNZ (hn : .n ∈ ws) (hz : .z ∈ ws) (v : Byte) : FlagsKept ws s (t.setNZ v) := by
  intro f hf
  rw [State.setNZ_flag, ← h f hf]
  cases f with
  | n => exact absurd hn hf
  | z => exact absurd hz hf
  | _ => rfl

end

theorem State.advance_regsKept (s : State) (i : Instr) (ws : List Reg) : RegsKept ws s (s.advance i) :=
  fun r _ => s.advance_reg i r

/-- Up to its operand read an instruction writes no register and no flag. -/
theorem afterOperand_advance_regsKept (o : Operand) (r : Resolved) (s : State) (i : Instr) (ws : List Reg) :
    RegsKept ws s (afterOperand o r (s.advance i)) := fun q _ => by rw [afterOperand_reg, State.advance_reg]

theorem afterOperand_advance_flagsKept (o : Operand) (r : Resolved) (s : State) (i : Instr) (ws : List Flag) :
    FlagsKept ws s (afterOperand o r (s.advance i)) := fun f _ => by rw [afterOperand_flag, State.advance_flag]

/-! ### Immediate operands -/

/-- An instruction with an immediate operand, whose one access is the read of the operand byte. -/
theorem RegisterEffect.of_immediate {regs : List Reg} {flags : List Flag} {i : Instr} {b : Byte} {s t : State}
    (hi : i.operand = .imm b) (h : BusAlike (afterOperand (.imm b) (resolve (.imm b) s) (s.advance i)) t)
    (hr : RegsKept regs s t) (hf : FlagsKept flags s t) (hh : t.halted = s.halted) (hret : t.returned = s.returned) :
    RegisterEffect regs flags (s.access (.read (s.pc + 1) b)) s t :=
  .of_alike ((afterOperand_advance_of i hi).trans h)
    (((s.advance_kept i).trans (afterOperand_kept ..)).trans h.kept) hr hf hh hret

/-- XAA in its fixed meaning (spec/46_undocumented.md R343). -/
theorem exec_xaa (b : Byte) (s : State) : ∃ t, exec (.xaa b) s = .next t ∧ t.a = s.x &&& b ∧ NZOf (s.x &&& b) t ∧
    (t.pc = s.pc + 2 ∧ t.cycles = s.cycles + 2) ∧
    RegisterEffect [.a] [.n, .z] (s.access (.read (s.pc + 1) b)) s t :=
  ⟨_, rfl, rfl, State.setNZ_nzOf .., ⟨rfl, rfl⟩, .of_immediate rfl (((BusAlike.refl _).setA _).setNZ _)
    (((afterOperand_advance_regsKept _ _ s _ [.a]).setA (by decide) _).setNZ _)
    (((afterOperand_advance_flagsKept _ _ s _ [.n, .z]).setA _).setNZ (by decide) (by decide) _) rfl rfl⟩

/-- LAX immediate in its fixed meaning (spec/46_undocumented.md R338). -/
theorem exec_lax_imm (b : Byte) (s : State) : ∃ t, exec (.lax (.imm b)) s = .next t ∧ t.a = b ∧ t.x = b ∧ NZOf b t ∧
    (t.pc = s.pc + 2 ∧ t.cycles = s.cycles + 2) ∧
    RegisterEffect [.a, .x] [.n, .z] (s.access (.read (s.pc + 1) b)) s t :=
  ⟨_, rfl, rfl, rfl, State.setNZ_nzOf .., ⟨rfl, rfl⟩, .of_immediate rfl ((((BusAlike.refl _).setA _).setX _).setNZ _)
    ((((afterOperand_advance_regsKept _ _ s _ [.a, .x]).setA (by decide) _).setX (by decide) _).setNZ _)
    ((((afterOperand_advance_flagsKept _ _ s _ [.n, .z]).setA _).setX _).setNZ (by decide) (by decide) _) rfl rfl⟩

/-! ### Stores -/

/-- An instruction whose one access after its resolver's reads is a write of `v` to `a`. -/
theorem exec_store {i : Instr} {o : Operand} {s : State} (a : Word) (v : Byte) (hi : i.operand = o)
    (h : exec i s = .next ((s.advance i).busWrite a v)) :
    ∃ t, exec i s = .next t ∧ Advanced i s t ∧ StoreEffect [] [] [(a, v)] ((s.afterPointer o).busWrite a v) s t :=
  ⟨_, h, (s.advance_advanced i).of_eq rfl rfl, .of_busWrite s i hi a v⟩

theorem exec_ahx (o : Operand) (s : State) : exec (.ahx o) s =
    .next ((s.advance (.ahx o)).busWrite (resolve o s).ea (s.a &&& s.x &&& (hi (resolve o s).base + 1))) := by
  rw [← s.advance_a (.ahx o), ← s.advance_x (.ahx o)]
  rfl

theorem exec_shx (w : Word) (s : State) : exec (.shx w) s =
    .next ((s.advance (.shx w)).busWrite (w + s.y.zeroExtend 16) (s.x &&& (hi w + 1))) := rfl

theorem exec_shy (w : Word) (s : State) : exec (.shy w) s =
    .next ((s.advance (.shy w)).busWrite (w + s.x.zeroExtend 16) (s.y &&& (hi w + 1))) := rfl

/-- TAS writes S, which changes nothing on the bus, and then stores it masked (spec/46_undocumented.md R347). -/
theorem exec_tas (w : Word) (s : State) :
    let ea := w + s.y.zeroExtend 16
    let v := s.a &&& s.x &&& (hi w + 1)
    ∃ t, exec (.tas w) s = .next t ∧ t.sp = s.a &&& s.x ∧ Advanced (.tas w) s t ∧
      StoreEffect [.sp] [] [(ea, v)] (s.busWrite ea v) s t := by
  intro ea v
  have halike : BusAlike s ((s.advance (.tas w)).setSp (s.a &&& s.x)) := (State.advance_alike_self (.tas w) rfl).setSp _
  have hstored : StoredAll [(ea, v)] s (((s.advance (.tas w)).setSp (s.a &&& s.x)).busWrite ea v) :=
    .one ((State.busWrite_stored _ ea v).congr halike.kept.symm (.refl _))
  exact ⟨_, rfl, rfl, (s.advance_advanced (.tas w)).of_eq rfl rfl, .of_alike (halike.busWrite ea v) hstored
    (((s.advance_regsKept _ [.sp]).setSp (by decide) _).busWrite _ _) (fun f _ => by simp) (by simp) (by simp) (by simp)⟩

/-- Settles O45: the rows, then each instruction: one read of the operand byte, or one store at the resolved address. -/
theorem unstableOpcodes : Obligations.UnstableOpcodes := by
  refine ⟨.of_map rfl, .of_map rfl, .of_map rfl, .of_map rfl, .of_map rfl, .of_map rfl, ?immediate, ?ahx, ?absolute⟩
  case immediate => exact fun b s => ⟨exec_xaa b s, exec_lax_imm b s⟩
  case ahx => exact fun o s => exec_store _ _ rfl (exec_ahx o s)
  case absolute => exact fun w s => ⟨exec_store _ _ rfl (exec_shx w s), exec_store _ _ rfl (exec_shy w s), exec_tas w s⟩

end Sys2Proof.Machine
end

section
/-! PROOFS. What a step costs and returns (spec/40_step_and_addressing.md R131 to R140, R157): the cycles of an instruction are
those of step 5 and of a branch, whatever its execution function does. -/

namespace Sys2Proof.Machine

/-! ### The cycles of an instruction -/

/-- An execution function that charges nothing beyond step 5. -/
def CyclesKept (effect : Resolved → State → State) : Prop := ∀ r s, (effect r s).cycles = s.cycles

theorem withOperand_cycles {o : Operand} {k : Byte → State → State} (hk : ∀ m s, (k m s).cycles = s.cycles) :
    CyclesKept fun r => withOperand o r k :=
  fun r s => (hk _ _).trans (afterOperand_cycles o r s)

theorem writeBack_cycles (o : Operand) (r : Resolved) (v : Byte) (s : State) : (writeBack o r v s).cycles = s.cycles := by
  cases o <;> rfl

theorem shiftM_cycles (f : Byte → Bool → ShiftOut) (o : Operand) : CyclesKept (shiftM f o) :=
  fun r s => (writeBack_cycles o r _ _).trans (afterOperand_cycles o r s)

theorem decM_cycles (o : Operand) : CyclesKept (decM o) := withOperand_cycles fun _ _ => rfl

theorem incM_cycles (o : Operand) : CyclesKept (incM o) := withOperand_cycles fun _ _ => rfl

theorem andThen_cycles {f g : Operand → Resolved → State → State} {o : Operand} (hf : CyclesKept (f o))
    (hg : CyclesKept (g o)) : CyclesKept (andThen f g o) :=
  fun r s => (hg r _).trans (hf r s)

theorem takenCycles_le (ref : BranchPageRef) (next target : Word) : takenCycles ref next target ≤ 2 := by
  unfold takenCycles
  split <;> decide

theorem branchIf_cycles (f : Flag) (want : Bool) (r : Resolved) (s : State) :
    ∃ n ≤ 2, (branchIf f want r s).cycles = s.cycles + BitVec.ofNat 64 n := by
  unfold branchIf
  split
  · exact ⟨_, takenCycles_le .., rfl⟩
  · exact ⟨0, by decide, (BitVec.add_zero _).symm⟩

/-- From s to t the instruction has charged the cycles of step 5 and, in relative mode, at most two more. -/
def CyclesTaken (i : Instr) (s t : State) : Prop :=
  ∃ branch ≤ 2, (i.operand.mode ≠ .rel → branch = 0) ∧ t.cycles = (s.advance i).cycles + BitVec.ofNat 64 branch

theorem CyclesTaken.of_eq {i : Instr} {s t : State} (h : t.cycles = (s.advance i).cycles) : CyclesTaken i s t :=
  ⟨0, by decide, fun _ => rfl, h.trans (BitVec.add_zero _).symm⟩

theorem CyclesTaken.of_branch {i : Instr} {f : Flag} {want : Bool} {r : Resolved} {s : State} (hi : i.operand.mode = .rel) :
    CyclesTaken i s (branchIf f want r (s.advance i)) := by
  obtain ⟨n, hn, hc⟩ := branchIf_cycles f want r (s.advance i)
  exact ⟨n, hn, fun h => absurd hi h, hc⟩

/-- Only a branch charges cycles of its own (spec/40_step_and_addressing.md R137, R156). -/
theorem exec_cycles {i : Instr} {s t : State} (h : exec i s = .next t) : CyclesTaken i s t := by
  cases i with
  | bpl | bmi | bvc | bvs | bcc | bcs | bne | beq => cases h; exact .of_branch rfl
  | lda | ldx | ldy | adc | sbc | and | ora | eor | cmp | cpx | cpy | bit | inc | dec | lax | anc | alr | arr | axs | xaa | las
  | sbcDup => cases h; exact .of_eq (withOperand_cycles (fun _ _ => rfl) _ _)
  | asl | lsr | rol | ror => cases h; exact .of_eq (shiftM_cycles _ _ _ _)
  | slo | rla | sre | rra =>
    cases h
    exact .of_eq (andThen_cycles (shiftM_cycles _ _) (withOperand_cycles fun _ _ => rfl) _ _)
  | dcp => cases h; exact .of_eq (andThen_cycles (decM_cycles _) (withOperand_cycles fun _ _ => rfl) _ _)
  | isc => cases h; exact .of_eq (andThen_cycles (incM_cycles _) (withOperand_cycles fun _ _ => rfl) _ _)
  | _ => cases h; exact .of_eq (by simp)

/-! ### Steps 2 and 3 -/

theorem State.takePending_cycles (s : State) :
    s.takePending.cycles = s.cycles + BitVec.ofNat 64 (if s.entersInterrupt = true then 7 else 0) := by
  unfold State.takePending State.enterInterrupt
  split <;> simp

theorem State.takePending_cfg (s : State) : s.takePending.cfg = s.cfg := (Keeps.refl s).takePending.cfg

@[simp] theorem State.fetched_cycles (s : State) : s.fetched.cycles = s.cycles := s.busReads_cycles _

@[simp] theorem State.fetched_cfg (s : State) : s.fetched.cfg = s.cfg := s.busReads_cfg _

/-! ### What the step returns (spec/40_step_and_addressing.md R139, R157) -/

/-- The cycles from step 2 to step 6: the interrupt entry, step 5 and the branch (spec/40_step_and_addressing.md R157). -/
theorem exec_fetched_cycles {s u : State} {i : Instr} (h : exec i s.takePending.fetched = .next u) :
    ∃ branch ≤ 2, (i.operand.mode ≠ .rel → branch = 0) ∧
      u.cycles - s.cycles = BitVec.ofNat 64 ((if s.entersInterrupt = true then 7 else 0) +
        stepCycles i s.cfg.pagePenaltyMode (resolve i.operand s.takePending.fetched).crossed + branch) := by
  obtain ⟨branch, hle, hrel, hc⟩ := exec_cycles h
  refine ⟨branch, hle, hrel, ?_⟩
  rw [hc, State.advance_cycles, State.fetched_cycles, State.fetched_cfg, State.takePending_cycles, State.takePending_cfg,
    BitVec.add_assoc, BitVec.add_assoc, add_sub_cancel_left, ← BitVec.ofNat_add, ← BitVec.ofNat_add, Nat.add_assoc]

/-- Settles O19: a step that runs an instruction charges for the interrupt entry, for step 5 and for a branch. -/
theorem stepReturnsTheCyclesConsumed : Obligations.StepReturnsTheCyclesConsumed := by
  intro s t h
  obtain ⟨hh, rfl⟩ | ⟨hh, hn, rfl⟩ | ⟨hh, hn, u, hu, rfl⟩ := step_cases h
  · exact ⟨fun _ => ⟨rfl, rfl⟩, fun h => by simp [hh] at h, fun h => by simp [hh] at h⟩
  · exact ⟨fun h => by simp [hh] at h, fun _ _ => ⟨rfl, rfl⟩, fun _ h => absurd h hn⟩
  · refine ⟨fun h => by simp [hh] at h, fun _ h => absurd hn h.ne', fun _ _ => ?_⟩
    obtain ⟨branch, hle, hrel, hc⟩ := exec_fetched_cycles hu
    exact ⟨branch, hle, hrel, rfl, hc⟩

/-! ### Only a halted step returns 0 (spec/60_exceptions.md R531) -/

theorem OpcodeTable.rowAt_cycles_bounds (op : Byte) :
    2 ≤ (OpcodeTable.rowAt op).2.2.1 ∧ (OpcodeTable.rowAt op).2.2.1 ≤ 8 := by
  revert op
  decide

theorem stepCycles_bounds (i : Instr) (mode : PagePenaltyMode) (crossed : Bool) :
    i.baseCycles ≤ stepCycles i mode crossed ∧ stepCycles i mode crossed ≤ i.baseCycles + 1 := by
  refine ⟨Nat.le_add_right .., ?_⟩
  unfold stepCycles
  exact Nat.add_le_add_left (ite_le_one (Nat.le_refl 1) (Nat.zero_le 1)) _

/-- Every opcode costs at least 2 cycles, and with its page penalty at most 9. -/
theorem State.stepCycles_fetchInstr_bounds (s : State) (mode : PagePenaltyMode) (crossed : Bool) :
    2 ≤ stepCycles s.fetchInstr mode crossed ∧ stepCycles s.fetchInstr mode crossed ≤ 9 := by
  have hrow : s.fetchInstr.baseCycles = (OpcodeTable.rowAt (s.peek s.pc)).2.2.1 := congrArg (·.2.2.1) (decodeBytes_row ..).1
  obtain ⟨hlo, hhi⟩ := OpcodeTable.rowAt_cycles_bounds (s.peek s.pc)
  obtain ⟨hmin, hmax⟩ := stepCycles_bounds s.fetchInstr mode crossed
  omega

/-- The cycles from step 2 to step 6 are not 0, and too few to wrap. -/
theorem exec_fetched_cycles_ne {s u : State} (h : exec s.takePending.fetchInstr s.takePending.fetched = .next u) :
    u.cycles - s.cycles ≠ 0 := by
  obtain ⟨branch, hle, -, hc⟩ := exec_fetched_cycles h
  obtain ⟨hlo, hhi⟩ := s.takePending.stepCycles_fetchInstr_bounds s.cfg.pagePenaltyMode
    (resolve s.takePending.fetchInstr.operand s.takePending.fetched).crossed
  intro hzero
  have hnat : BitVec.toNat (BitVec.ofNat 64 _) = 0 := congrArg BitVec.toNat (hc.symm.trans hzero)
  rw [BitVec.toNat_ofNat] at hnat
  split at hnat <;> omega

/-- No step but a halted one returns 0 (spec/60_exceptions.md R531). -/
theorem step_returned_ne_zero {s t : State} (hh : s.halted = false) (h : step s = .next t) : t.returned ≠ 0 := by
  obtain ⟨hh', -⟩ | ⟨-, -, rfl⟩ | ⟨-, -, u, hu, rfl⟩ := step_cases h
  · exact absurd (hh.symm.trans hh') Bool.false_ne_true
  · exact (by decide : (1 : BitVec 64) ≠ 0)
  · exact exec_fetched_cycles_ne (s := s.begin) hu

/-! ### Halted steps, stall steps and steps that run an instruction -/

/-- A host call but `reset()` leaves the lock-up state as it is (spec/60_exceptions.md R531). -/
theorem State.hostCall_halted (s : State) {call : HostCall} (h : call ≠ .reset) : (s.hostCall call).halted = s.halted := by
  obtain ⟨es, c, k, n, rs, ht, -⟩ := s.hostCall_frame h
  rw [ht]

/-- Settles O14: no step and no host call but `reset()` writes the lock-up state of a halted machine. -/
theorem lockUpIsLeftOnlyByReset : Obligations.LockUpIsLeftOnlyByReset :=
  ⟨fun s hh => ⟨step_of_halted hh, fun _ hcall => (s.hostCall_halted hcall).trans hh, rfl, rfl, requestIrq_eq ..,
    fun _ => rfl⟩, fun _ _ => step_returned_ne_zero⟩

/-- A stall step (spec/40_step_and_addressing.md R133). -/
theorem step_of_stalled {s : State} (hh : s.halted = false) (hn : s.stall ≠ 0) : step s = .next s.stallStep := by
  unfold step
  rw [hh, if_neg Bool.false_ne_true, if_pos hn]

/-- Settles O15: the stall step is the whole step. -/
theorem stallStep : Obligations.StallStep :=
  fun _ hh hn => step_of_stalled hh hn.ne'

/-- A step that runs an instruction (spec/40_step_and_addressing.md R131, R139). -/
theorem step_of_exec {s t : State} (hh : s.halted = false) (hn : s.stall = 0)
    (h : exec s.begin.takePending.fetchInstr s.begin.takePending.fetched = .next t) : step s = .next (t.finish s.cycles) := by
  unfold step
  rw [hh, hn, if_neg Bool.false_ne_true, if_neg (not_not.mpr rfl)]
  dsimp only
  rw [h]

/-- The reads of the fetch for an instruction known by a name (spec/40_step_and_addressing.md R135, R140). -/
theorem State.fetched_of_fetchInstr {s : State} {i : Instr} (h : s.fetchInstr = i) :
    s.fetched = s.busReads (s.pc :: (List.range (operandByteReads i.operand)).map fun k => s.pc + BitVec.ofNat 16 (k + 1)) :=
  h ▸ rfl

/-- Settles O13: the bytes at PC decode to the fetched instruction, and its mode says which of them the fetch reads. -/
theorem stepRunsTheDecodedInstruction : Obligations.StepRunsTheDecodedInstruction := by
  intro s i rest hh hn s1 s2 s3 fetched hdecode
  have hinstr : s1.fetchInstr = i := by
    rw [decode_three] at hdecode
    cases hdecode
    rfl
  have hfetched : s1.fetched = fetched := by
    rw [State.fetched_of_fetchInstr hinstr]
    dsimp only [fetched]
    cases i.operand <;> rfl
  obtain ⟨t, ht⟩ := exec_completes i fetched
  exact ⟨t, ht, step_of_exec hh hn (hinstr ▸ hfetched ▸ ht)⟩

end Sys2Proof.Machine
end

section
/-! PROOFS. The effective address of every addressing mode in arithmetic on numbers (spec/40_step_and_addressing.md R141 to
R154), and which opcodes pay for a page crossing (R155). -/

namespace Sys2Proof.Machine

/-! ### Indexed addresses (spec/40_step_and_addressing.md R145, R146, R148, R149, R152, R154) -/

theorem zeroPage_add_toNat (b index : Byte) : (zeroPage (b + index)).toNat = (b.toNat + index.toNat) % 256 := by
  rw [zeroPage_toNat, BitVec.toNat_add]

theorem zext16_toNat (v : Byte) : (zext16 v).toNat = v.toNat := BitVec.toNat_setWidth_of_le (by decide)

theorem indexed_ea_toNat (base : Word) (index : Byte) :
    (indexed base index).ea.toNat = (base.toNat + index.toNat) % 65536 := by
  show (base + zext16 index).toNat = _
  rw [BitVec.toNat_add, zext16_toNat]

/-- A page is crossed when the numbers of the two pages differ. -/
theorem indexed_crossed_iff (base : Word) (index : Byte) :
    (indexed base index).crossed = true ↔ (indexed base index).ea.toNat / 256 ≠ base.toNat / 256 :=
  (indexed_crossed base index).trans (hi_ne_hi ..)

/-! ### Pointers (spec/40_step_and_addressing.md R150 to R152) -/

/-- Within page 0 the high byte of a pointer wraps to address 0. -/
theorem nextInPage_zeroPage_toNat (b : Byte) : (nextInPage (zeroPage b)).toNat = (b.toNat + 1) % 256 := by
  have := b.isLt
  rw [nextInPage_toNat, zeroPage_toNat]
  omega

/-! ### Branch targets (spec/40_step_and_addressing.md R153) -/

/-- The signed offset, modulo 65536. -/
theorem sext16_toNat (d : Byte) : ((sext16 d).toNat : Int) = d.toInt % 65536 := by
  show ((BitVec.ofInt 16 d.toInt).toNat : Int) = _
  rw [BitVec.toNat_ofInt, Int.toNat_of_nonneg (Int.emod_nonneg _ (by decide))]
  rfl

theorem branchTarget_toNat (pc : Word) (d : Byte) :
    ((pc + 2 + sext16 d).toNat : Int) = (pc.toNat + 2 + d.toInt) % 65536 := by
  have hd := sext16_toNat d
  have h2 : (2 : Word).toNat = 2 := rfl
  rw [BitVec.toNat_add, BitVec.toNat_add, h2]
  omega

/-- Settles O20: mode by mode. -/
theorem effectiveAddresses : Obligations.EffectiveAddresses := by
  intro s b w noIndex reads pair
  refine ⟨?imp, ?acc, ?imm, ?zp, ?zpx, ?zpy, ?abs, ?abx, ?aby, ?ind, ?izx, ?izy, ?rel, fun _ => rfl, ?operand⟩
  case imp => exact ⟨rfl, ⟨rfl, rfl⟩, rfl, rfl⟩
  case acc => exact ⟨rfl, ⟨rfl, rfl⟩, rfl, rfl⟩
  case imm => exact ⟨rfl, ⟨rfl, rfl⟩, rfl, rfl⟩
  case zp => exact ⟨zeroPage_toNat b, ⟨rfl, rfl⟩, rfl, rfl⟩
  case zpx => exact ⟨zeroPage_add_toNat b s.x, ⟨rfl, rfl⟩, rfl, rfl⟩
  case zpy => exact ⟨zeroPage_add_toNat b s.y, ⟨rfl, rfl⟩, rfl, rfl⟩
  case abs => exact ⟨rfl, ⟨rfl, rfl⟩, rfl, rfl⟩
  case abx => exact ⟨indexed_ea_toNat w s.x, rfl, indexed_crossed_iff w s.x, rfl, rfl⟩
  case aby => exact ⟨indexed_ea_toNat w s.y, rfl, indexed_crossed_iff w s.y, rfl, rfl⟩
  case ind => exact ⟨nextInPage w, nextInPage_toNat w, rfl, ⟨rfl, rfl⟩, rfl, rfl⟩
  case izx =>
    refine ⟨zeroPage (b + s.x), nextInPage (zeroPage (b + s.x)), zeroPage_add_toNat b s.x, ?_, rfl, ⟨rfl, rfl⟩, rfl, rfl⟩
    rw [nextInPage_zeroPage_toNat, BitVec.toNat_add, Nat.mod_add_mod]
  case izy =>
    exact ⟨zeroPage b, nextInPage (zeroPage b), _, zeroPage_toNat b, nextInPage_zeroPage_toNat b, rfl, rfl,
      indexed_ea_toNat _ s.y, indexed_crossed_iff _ s.y, rfl, rfl⟩
  case rel => exact ⟨branchTarget_toNat s.pc b, ⟨rfl, rfl⟩, rfl, rfl⟩
  case operand =>
    refine fun r => ⟨⟨rfl, rfl⟩, ⟨rfl, rfl⟩, fun o ho => ?_⟩
    cases o with
    | zp | zpx | zpy | abs | abx | aby | izx | izy => exact ⟨rfl, rfl⟩
    | imp | acc | imm | ind | rel => simp [Operand.mode] at ho

/-! ### The page-crossing cycle (spec/40_step_and_addressing.md R155) -/

/-- The opcodes that pay under `per_opcode`. -/
def penalizedOpcodes : List Byte :=
  [0x11, 0x19, 0x1C, 0x1D, 0x31, 0x39, 0x3C, 0x3D, 0x51, 0x59, 0x5C, 0x5D,
   0x71, 0x79, 0x7C, 0x7D, 0xB1, 0xB3, 0xB9, 0xBB, 0xBC, 0xBD, 0xBE, 0xBF,
   0xD1, 0xD9, 0xDC, 0xDD, 0xF1, 0xF9, 0xFC, 0xFD]

/-- The last column of the opcode table. -/
theorem OpcodeTable.rowAt_penalty (op : Byte) : (OpcodeTable.rowAt op).2.2.2 = decide (op ∈ penalizedOpcodes) := by
  revert op
  decide

theorem pagePenalty_decodeBytes (op b1 b2 : Byte) :
    (decodeBytes op b1 b2).pagePenalty = decide (op ∈ penalizedOpcodes) :=
  (congrArg (·.2.2.2) (decodeBytes_row op b1 b2).1).trans (OpcodeTable.rowAt_penalty op)

theorem mayCross_eq (m : Mode) : m.mayCross = decide (m ∈ [Mode.abx, .aby, .izy]) := by cases m <;> decide

theorem stepCycles_not_crossed (i : Instr) (mode : PagePenaltyMode) : stepCycles i mode false = i.baseCycles := rfl

theorem stepCycles_perOpcode (i : Instr) :
    stepCycles i .perOpcode true = i.baseCycles + if i.pagePenalty = true then 1 else 0 := rfl

theorem stepCycles_uniform (i : Instr) :
    stepCycles i .uniform true = i.baseCycles + if i.operand.mode.mayCross = true then 1 else 0 := rfl

/-- Settles O21: the penalty column of the opcode table, and the modes that can cross a page. -/
theorem pageCrossingPenalty : Obligations.PageCrossingPenalty := by
  intro op b1 b2 i penalized
  refine ⟨stepCycles_not_crossed .., stepCycles_not_crossed .., ?perOpcode, ?uniform⟩
  case perOpcode =>
    show _ = i.baseCycles + if op ∈ penalizedOpcodes then 1 else 0
    rw [stepCycles_perOpcode, pagePenalty_decodeBytes]
    simp only [decide_eq_true_eq]
  case uniform =>
    rw [stepCycles_uniform, mayCross_eq]
    simp only [decide_eq_true_eq]

end Sys2Proof.Machine
end

section
/-! PROOFS. The conditional branches (spec/44_control_flow.md R270 to R278, spec/40_step_and_addressing.md R156). -/

namespace Sys2Proof.Machine

theorem branchIf_taken {f : Flag} {want : Bool} {s : State} (h : s.flag f = want) (r : Resolved) :
    branchIf f want r s = (s.charge (takenCycles s.cfg.branchPageRef s.pc r.ea)).setPc r.ea := if_pos h

theorem branchIf_not_taken {f : Flag} {want : Bool} {s : State} (h : s.flag f ≠ want) (r : Resolved) :
    branchIf f want r s = s := if_neg h

/-- A branch writes PC and the cycle counter and nothing else (spec/44_control_flow.md R270). -/
theorem branchIf_alike (f : Flag) (want : Bool) (r : Resolved) (s : State) : BusAlike s (branchIf f want r s) := by
  unfold branchIf
  split
  · exact ((BusAlike.refl s).charge _).setPc _
  · exact .refl s

@[simp] theorem branchIf_reg (f : Flag) (want : Bool) (r : Resolved) (s : State) (q : Reg) :
    (branchIf f want r s).reg q = s.reg q := by
  unfold branchIf
  split <;> simp

@[simp] theorem branchIf_flag (f : Flag) (want : Bool) (r : Resolved) (s : State) (g : Flag) :
    (branchIf f want r s).flag g = s.flag g := by
  unfold branchIf
  split <;> rfl

@[simp] theorem branchIf_returned (f : Flag) (want : Bool) (r : Resolved) (s : State) :
    (branchIf f want r s).returned = s.returned := by
  unfold branchIf
  split <;> rfl

/-- A branch makes no access and leaves every register, flag and byte of memory (spec/44_control_flow.md R270). -/
theorem branchIf_effect (f : Flag) (want : Bool) (r : Resolved) {i : Instr} {d : Byte} (hi : i.operand = .rel d)
    (s : State) : RegisterEffect [] [] s s (branchIf f want r (s.advance i)) := by
  have halike : BusAlike s (branchIf f want r (s.advance i)) :=
    (State.advance_alike_self i (by rw [hi]; rfl)).trans (branchIf_alike ..)
  exact .of_alike halike halike.kept (fun q _ => by simp) (fun g _ => by simp)
    ((branchIf_halted ..).trans (s.advance_halted i)) (by simp)

/-- The reference of `BRANCH_PAGE_REF` is the next instruction or the branch itself (spec/40_step_and_addressing.md R156). -/
theorem branchRef_next (ref : BranchPageRef) (pc : Word) :
    branchRef ref (pc + 2) = match ref with | .nextPc => pc + 2 | .opcodePc => pc := by
  cases ref with
  | nextPc => rfl
  | opcodePc => exact BitVec.add_sub_cancel pc 2

/-- The cost of a taken branch, with its base cost (spec/40_step_and_addressing.md R156). -/
theorem two_add_takenCycles (ref : BranchPageRef) (next target : Word) :
    2 + BitVec.ofNat 64 (takenCycles ref next target) =
      if target.toNat / 256 = (branchRef ref next).toNat / 256 then 3 else 4 := by
  unfold takenCycles
  simp only [hi_ne_hi, ite_not]
  split <;> rfl

/-- The meaning of a branch on a flag. -/
theorem exec_branch {i : Instr} {f : Flag} {want : Bool} {d : Byte} {s : State}
    (hexec : exec i s = perform i (branchIf f want) s) (hi : i.operand = .rel d) (hbase : i.baseCycles = 2) :
    let next := s.pc + 2
    let target := next + d.signExtend 16
    let reference := match s.cfg.branchPageRef with
      | .nextPc => next
      | .opcodePc => s.pc
    ∃ t, exec i s = .next t ∧ RegisterEffect [] [] s s t ∧
      (s.flag f = want → t.pc = target ∧
        t.cycles = s.cycles + (if target.toNat / 256 = reference.toNat / 256 then 3 else 4)) ∧
      (s.flag f ≠ want → t.pc = next ∧ t.cycles = s.cycles + 2) := by
  intro next target reference
  have hpc : (s.advance i).pc = next := by rw [State.advance_pc, Instr.size, hi]; rfl
  have hcost : stepCycles i s.cfg.pagePenaltyMode (resolve i.operand s).crossed = 2 := by
    rw [hi]
    exact (stepCycles_not_crossed ..).trans hbase
  have hcycles : (s.advance i).cycles = s.cycles + 2 := by
    rw [State.advance_cycles, hcost]
    rfl
  have hea : (resolve i.operand s).ea = target := by rw [hi]; rfl
  have href : branchRef s.cfg.branchPageRef next = reference := branchRef_next ..
  refine ⟨_, hexec, branchIf_effect f want _ hi s, fun htaken => ?taken, fun hnot => ?notTaken⟩
  case taken =>
    rw [← s.advance_flag i] at htaken
    rw [branchIf_taken htaken]
    refine ⟨hea, ?_⟩
    rw [State.setPc_cycles, State.charge_cycles, hcycles, State.advance_cfg, hpc, hea, BitVec.add_assoc,
      two_add_takenCycles, href]
  case notTaken =>
    rw [← s.advance_flag i] at hnot
    rw [branchIf_not_taken hnot]
    exact ⟨hpc, hcycles⟩

/-- Settles O33: the rows, then the eight branches. -/
theorem conditionalBranches : Obligations.ConditionalBranches := by
  refine ⟨.of_map rfl, .of_map rfl, .of_map rfl, .of_map rfl, .of_map rfl, .of_map rfl, .of_map rfl, .of_map rfl,
    fun d s q hq => ?_⟩
  fin_cases hq <;> exact exec_branch rfl rfl rfl

end Sys2Proof.Machine
end

section
/-! PROOFS. What an instruction with an operand read has done when its own effect begins, and the shapes of that effect on A, P
and memory, shared by the arithmetic instructions (spec/43_arith_logic_shift.md). -/

namespace Sys2Proof.Machine

/-! ### The operand byte and the state after its read -/

/-- The operand `M`, as the read right after the resolver's reads finds it (spec/00_scope.md R15). -/
def State.operandByte (s : State) (o : Operand) : Byte := operandValue o (resolve o s) (s.afterPointer o)

/-- The state with the resolver's reads and the operand read made, and nothing else. -/
def State.afterRead (s : State) (o : Operand) : State := afterOperand o (resolve o s) (s.afterPointer o)

/-- The state on which an execution function works once it has its operand: advanced, with the operand read made. -/
def State.operandRead (s : State) (i : Instr) : State := afterOperand i.operand (resolve i.operand s) (s.advance i)

section
variable (s : State) (i : Instr)

@[simp] theorem State.operandRead_a : (s.operandRead i).a = s.a := by simp [State.operandRead]
@[simp] theorem State.operandRead_x : (s.operandRead i).x = s.x := by simp [State.operandRead]
@[simp] theorem State.operandRead_y : (s.operandRead i).y = s.y := by simp [State.operandRead]
@[simp] theorem State.operandRead_p : (s.operandRead i).p = s.p := by simp [State.operandRead]
@[simp] theorem State.operandRead_flag (f : Flag) : (s.operandRead i).flag f = s.flag f := by simp [State.operandRead]
@[simp] theorem State.operandRead_reg (r : Reg) : (s.operandRead i).reg r = s.reg r := by simp [State.operandRead]
@[simp] theorem State.operandRead_halted : (s.operandRead i).halted = s.halted := by simp [State.operandRead]
@[simp] theorem State.operandRead_returned : (s.operandRead i).returned = s.returned := by simp [State.operandRead]

theorem State.operandRead_cycles : (s.operandRead i).cycles = (s.advance i).cycles := afterOperand_cycles ..

theorem State.operandRead_advanced : Advanced i s (s.operandRead i) :=
  (s.advance_advanced i).of_eq (afterOperand_pc ..) (s.operandRead_cycles i)

/-- The accesses so far are the resolver's reads and the operand read. -/
theorem State.operandRead_alike : BusAlike (s.afterRead i.operand) (s.operandRead i) := afterOperand_advance ..

theorem State.operandRead_kept : StorageKept s (s.operandRead i) := (s.advance_kept i).trans (afterOperand_kept ..)

/-- An execution function that works on its operand's value starts from `State.operandByte` and `State.operandRead`. -/
theorem withOperand_advance (k : Byte → State → State) :
    withOperand i.operand (resolve i.operand s) k (s.advance i) = k (s.operandByte i.operand) (s.operandRead i) := by
  unfold withOperand
  rw [operandValue_advance]
  rfl

end

/-! ### Flag bytes: which flags a computation writes -/

section
variable (s : State)

theorem State.setP_putNZ_kept (v : Byte) : FlagsKept [.n, .z] s (s.setP (putNZ s.p v)) := by
  intro f hf
  rw [State.setP_flag, getFlag_putNZ]
  cases f with
  | n | z => simp at hf
  | _ => rfl

theorem State.setP_putCNZ_kept (out : ShiftOut) : FlagsKept [.n, .z, .c] s (s.setP (putCNZ s.p out)) := by
  intro f hf
  rw [State.setP_flag, getFlag_putCNZ]
  cases f with
  | n | z | c => simp at hf
  | _ => rfl

theorem State.setP_putArith_kept (out : AluOut) : FlagsKept [.n, .v, .z, .c] s (s.setP (putArith s.p out)) := by
  intro f hf
  rw [State.setP_flag, getFlag_putArith]
  cases f with
  | n | v | z | c => simp at hf
  | _ => rfl

theorem State.setP_putCmp_kept (out : CmpOut) : FlagsKept [.n, .z, .c] s (s.setP (putCmp s.p out)) := by
  intro f hf
  rw [State.setP_flag, getFlag_putCmp]
  cases f with
  | n | z | c => simp at hf
  | _ => rfl

theorem State.setP_putBit_kept (out : BitOut) : FlagsKept [.n, .v, .z] s (s.setP (putBit s.p out)) := by
  intro f hf
  rw [State.setP_flag, getFlag_putBit]
  cases f with
  | n | v | z => simp at hf
  | _ => rfl

end

/-! ### The shapes of an effect after the operand read -/

section
variable {flags : List Flag} {i : Instr} {s : State}

/-- The instruction writes P and nothing else. -/
theorem RegisterEffect.of_setP {q : Byte} (hf : FlagsKept flags s (s.setP q)) (hi : .i ∉ flags) :
    RegisterEffect [] flags (s.afterRead i.operand) s ((s.operandRead i).setP q) := by
  have halike : BusAlike (s.operandRead i) ((s.operandRead i).setP q) :=
    (BusAlike.refl _).setP q ((hf .i hi).trans (s.operandRead_flag i .i).symm)
  exact .of_alike ((s.operandRead_alike i).trans halike) ((s.operandRead_kept i).trans halike.kept)
    (fun r _ => by simp) hf (by simp) (by simp)

/-- The instruction writes A and P and nothing else. -/
theorem RegisterEffect.of_setA_setP {v q : Byte} (hf : FlagsKept flags s (s.setP q)) (hi : .i ∉ flags) :
    RegisterEffect [.a] flags (s.afterRead i.operand) s (((s.operandRead i).setA v).setP q) := by
  have halike : BusAlike (s.operandRead i) (((s.operandRead i).setA v).setP q) :=
    ((BusAlike.refl _).setA v).setP q ((hf .i hi).trans (s.operandRead_flag i .i).symm)
  exact .of_alike ((s.operandRead_alike i).trans halike) ((s.operandRead_kept i).trans halike.kept)
    (fun r hr => by simp_all) hf (by simp) (by simp)

/-- The instruction stores a byte and sets N and Z from it, after it has written no more than flags (t). -/
theorem StoreEffect.of_busWrite_setNZ {t : State} (h : BusAlike (s.operandRead i) t) (hr : RegsKept [] s t)
    (hf : FlagsKept flags s t) (hn : .n ∈ flags) (hz : .z ∈ flags) (hh : t.halted = s.halted)
    (hret : t.returned = s.returned) (a : Word) (v : Byte) :
    StoreEffect [] flags [(a, v)] ((s.afterRead i.operand).busWrite a v) s ((t.busWrite a v).setNZ v) := by
  have hkept : StorageKept s t := (s.operandRead_kept i).trans h.kept
  have hnz : BusAlike (t.busWrite a v) ((t.busWrite a v).setNZ v) := (BusAlike.refl _).setNZ v
  have hstored : Stored a v s ((t.busWrite a v).setNZ v) := (t.busWrite_stored a v).congr hkept.symm hnz.kept
  have hwrite : FlagsKept flags s (t.busWrite a v) := hf
  exact .of_alike ((((s.operandRead_alike i).trans h).busWrite a v).trans hnz) (.one hstored)
    ((hr.busWrite a v).setNZ v) (hwrite.setNZ hn hz v) hh hkept.cfg hret

end

end Sys2Proof.Machine
end

section
/-! PROOFS. The sums of the ALU in numbers (spec/41_alu.md R172 to R175): one set of facts about `aluAdd`, and `aluSub` as the
addition of the complement. -/

namespace Sys2Proof.Machine

/-! ### Sign bits and signed values -/

/-- Bit 7 is the sign. -/
theorem getLsbD_seven (v : Byte) : v.getLsbD 7 = decide (v.toInt < 0) :=
  v.msb_eq_getLsbD_last.symm.trans BitVec.msb_eq_toInt

theorem byte_toInt (v : Byte) : v.toInt = if v.toNat < 128 then (v.toNat : Int) else v.toNat - 256 := by
  rw [BitVec.toInt_eq_toNat_cond]
  split <;> split <;> omega

theorem byte_not_toNat (m : Byte) : (~~~m).toNat = 255 - m.toNat :=
  BitVec.toNat_not

theorem byte_not_toInt (m : Byte) : (~~~m).toInt = -m.toInt - 1 := by
  have := m.isLt
  rw [byte_toInt, byte_toInt, byte_not_toNat]
  split <;> split <;> omega

/-! ### Addition -/

theorem aluAdd_r_toNat (a m : Byte) (c : Bool) : (aluAdd a m c).r.toNat = (a.toNat + m.toNat + c.toNat) % 256 :=
  BitVec.toNat_ofNat ..

theorem aluAdd_c_iff (a m : Byte) (c : Bool) : (aluAdd a m c).c = true ↔ 255 < a.toNat + m.toNat + c.toNat :=
  decide_eq_true_iff

/-- Overflow: the operands agree in sign and the result does not (spec/41_alu.md R172). -/
theorem aluAdd_v_iff (a m : Byte) (c : Bool) :
    (aluAdd a m c).v = true ↔ a.getLsbD 7 = m.getLsbD 7 ∧ (aluAdd a m c).r.getLsbD 7 ≠ a.getLsbD 7 := by
  show ((a ^^^ (aluAdd a m c).r) &&& (m ^^^ (aluAdd a m c).r)).getLsbD 7 = true ↔ _
  rw [BitVec.getLsbD_and, BitVec.getLsbD_xor, BitVec.getLsbD_xor]
  cases a.getLsbD 7 <;> cases m.getLsbD 7 <;> cases (aluAdd a m c).r.getLsbD 7 <;> decide

/-- Overflow: the signed sum is no signed byte (spec/41_alu.md R173). -/
theorem aluAdd_v_iff_signed (a m : Byte) (c : Bool) :
    (aluAdd a m c).v = true ↔ a.toInt + m.toInt + c.toNat < -128 ∨ 127 < a.toInt + m.toInt + c.toNat := by
  have ha := a.isLt
  have hm := m.isLt
  have hc := c.toNat_le
  have hr := aluAdd_r_toNat a m c
  rw [aluAdd_v_iff]
  simp only [ne_eq, getLsbD_seven, decide_eq_decide, byte_toInt, hr]
  omega

/-! ### Subtraction -/

/-- Subtraction is the addition of the complement (spec/41_alu.md R175). -/
theorem aluSub_eq_aluAdd_not (a m : Byte) (c : Bool) : aluSub a m c = aluAdd a (~~~m) c := by
  have hm := m.isLt
  have hnot := byte_not_toNat m
  have hr : (aluSub a m c).r = (aluAdd a (~~~m) c).r := by
    apply BitVec.eq_of_toNat_eq
    rw [aluAdd_r_toNat, hnot]
    show (BitVec.ofInt 8 _).toNat = _
    rw [BitVec.toNat_ofInt]
    omega
  have hc : (aluSub a m c).c = (aluAdd a (~~~m) c).c := by
    rw [Bool.eq_iff_iff, aluAdd_c_iff, hnot]
    show decide _ = true ↔ _
    rw [decide_eq_true_eq]
    omega
  have hv : (aluSub a m c).v = (aluAdd a (~~~m) c).v := by
    show ((a ^^^ m) &&& (a ^^^ (aluSub a m c).r)).getLsbD 7 =
      ((a ^^^ (aluAdd a (~~~m) c).r) &&& (~~~m ^^^ (aluAdd a (~~~m) c).r)).getLsbD 7
    rw [hr]
    simp only [BitVec.getLsbD_and, BitVec.getLsbD_xor, BitVec.getLsbD_not]
    cases a.getLsbD 7 <;> cases m.getLsbD 7 <;> cases (aluAdd a (~~~m) c).r.getLsbD 7 <;> decide
  exact AluOut.mk.injEq .. ▸ ⟨hr, hc, hv⟩

end Sys2Proof.Machine
end

section
/-! PROOFS. ADC and SBC (spec/43_arith_logic_shift.md R230, R231, spec/46_undocumented.md R349), binary at every value of the
decimal flag (spec/41_alu.md R176). -/

namespace Sys2Proof.Machine

/-! ### The two instructions, through what the ALU gives -/

/-- A gets a sum, and C, V, N and Z follow it. -/
def State.withSum (s : State) (out : AluOut) : State := (s.setA out.r).setP (putArith s.p out)

@[simp] theorem State.withSum_a (s : State) (out : AluOut) : (s.withSum out).a = out.r := rfl

@[simp] theorem State.withSum_cycles (s : State) (out : AluOut) : (s.withSum out).cycles = s.cycles := rfl

@[simp] theorem State.withSum_flag (s : State) (out : AluOut) (f : Flag) :
    (s.withSum out).flag f = match f with
      | .n => bit7 out.r
      | .z => decide (out.r = 0)
      | .c => out.c
      | .v => out.v
      | f => s.flag f := getFlag_putArith ..

theorem State.withSum_nzOf (s : State) (out : AluOut) : NZOf out.r (s.withSum out) := ⟨by simp, by simp [bit7]⟩

theorem exec_adc (o : Operand) (s : State) : exec (.adc o) s =
    .next ((s.operandRead (.adc o)).withSum (aluAdd s.a (s.operandByte o) (s.flag .c))) := by
  rw [← s.operandRead_a (.adc o), ← s.operandRead_flag (.adc o)]
  exact congrArg Host.Outcome.next (withOperand_advance s (.adc o) _)

theorem exec_sbc (o : Operand) (s : State) : exec (.sbc o) s =
    .next ((s.operandRead (.sbc o)).withSum (aluSub s.a (s.operandByte o) (s.flag .c))) := by
  rw [← s.operandRead_a (.sbc o), ← s.operandRead_flag (.sbc o)]
  exact congrArg Host.Outcome.next (withOperand_advance s (.sbc o) _)

/-- PC, cycles and frame of an instruction that writes a sum. -/
theorem State.withSum_effect (s : State) (i : Instr) (out : AluOut) :
    Advanced i s ((s.operandRead i).withSum out) ∧
      RegisterEffect [.a] [.n, .v, .z, .c] (s.afterRead i.operand) s ((s.operandRead i).withSum out) := by
  refine ⟨(s.operandRead_advanced i).of_eq rfl rfl, ?_⟩
  unfold State.withSum
  rw [State.operandRead_p]
  exact .of_setA_setP (s.setP_putArith_kept out) (by decide)

/-- Settles O25: the facts about `aluAdd`, at the operand that the instruction reads. -/
theorem addWithCarry : Obligations.AddWithCarry := by
  refine ⟨.of_map rfl, fun o s => ?_⟩
  obtain ⟨hadvanced, heffect⟩ := s.withSum_effect (.adc o) (aluAdd s.a (s.operandByte o) (s.flag .c))
  refine ⟨_, exec_adc o s, aluAdd_r_toNat .., ?carry, ?signed, ?signs, State.withSum_nzOf .., hadvanced, heffect⟩
  all_goals rw [State.withSum_flag]
  case carry => exact aluAdd_c_iff ..
  case signed => exact aluAdd_v_iff_signed ..
  case signs => exact aluAdd_v_iff ..

/-! ### Subtraction in numbers -/

theorem aluSub_r_toNat (a m : Byte) (c : Bool) :
    ((aluSub a m c).r.toNat : Int) = ((a.toNat : Int) - m.toNat - (1 - c.toNat)) % 256 := by
  have hm := m.isLt
  rw [aluSub_eq_aluAdd_not, aluAdd_r_toNat, byte_not_toNat]
  omega

theorem aluSub_c_iff (a m : Byte) (c : Bool) :
    (aluSub a m c).c = true ↔ (0 : Int) ≤ (a.toNat : Int) - m.toNat - (1 - c.toNat) := decide_eq_true_iff

theorem aluSub_v_iff_signed (a m : Byte) (c : Bool) :
    (aluSub a m c).v = true ↔
      a.toInt - m.toInt - (1 - c.toNat) < -128 ∨ 127 < a.toInt - m.toInt - (1 - c.toNat) := by
  rw [aluSub_eq_aluAdd_not, aluAdd_v_iff_signed, byte_not_toInt]
  omega

/-- Overflow: the operands differ in sign and the result takes that of the second (spec/41_alu.md R174). -/
theorem aluSub_v_iff (a m : Byte) (c : Bool) :
    (aluSub a m c).v = true ↔ a.getLsbD 7 ≠ m.getLsbD 7 ∧ (aluSub a m c).r.getLsbD 7 ≠ a.getLsbD 7 := by
  rw [aluSub_eq_aluAdd_not, aluAdd_v_iff, BitVec.getLsbD_not]
  cases a.getLsbD 7 <;> cases m.getLsbD 7 <;> simp

/-- Settles O26: the facts about `aluSub`, at the operand that the instruction reads; `$EB` runs the same execution function. -/
theorem subtractWithBorrow : Obligations.SubtractWithBorrow := by
  refine ⟨.of_map rfl, .of_map rfl, aluSub_eq_aluAdd_not, fun o s => ?_, fun b s => ⟨_, rfl, rfl⟩⟩
  obtain ⟨hadvanced, heffect⟩ := s.withSum_effect (.sbc o) (aluSub s.a (s.operandByte o) (s.flag .c))
  refine ⟨_, exec_sbc o s, aluSub_r_toNat .., ?borrow, ?signed, ?signs, State.withSum_nzOf .., hadvanced, heffect⟩
  all_goals rw [State.withSum_flag]
  case borrow => exact aluSub_c_iff ..
  case signed => exact aluSub_v_iff_signed ..
  case signs => exact aluSub_v_iff ..

/-! ### The decimal flag -/

/-- The decimal flag changes nothing on the bus. -/
theorem BusAlike.of_setFlag_d (s : State) (d : Bool) : BusAlike s (s.setFlag .d d) :=
  (BusAlike.refl s).setFlag .d d (by decide)

theorem resolve_setFlag_d (o : Operand) (s : State) (d : Bool) : resolve o (s.setFlag .d d) = resolve o s := by
  cases o <;> rfl

theorem pointerReads_setFlag (o : Operand) (s : State) (f : Flag) (v : Bool) :
    pointerReads o (s.setFlag f v) = pointerReads o s := by
  cases o <;> rfl

theorem operandByte_setFlag_d (o : Operand) (s : State) (d : Bool) :
    (s.setFlag .d d).operandByte o = s.operandByte o := by
  unfold State.operandByte State.afterPointer
  rw [resolve_setFlag_d, pointerReads_setFlag]
  exact ((BusAlike.of_setFlag_d s d).busReads _).operandValue (by simp) o _

/-- An instruction that writes a sum of A, its operand and the carry gives the same sum at every value of the decimal flag. -/
theorem decimalFlag_unused {i : Instr} (alu : Byte → Byte → Bool → AluOut)
    (h : ∀ s, exec i s = .next ((s.operandRead i).withSum (alu s.a (s.operandByte i.operand) (s.flag .c)))) (s : State)
    (d : Bool) : ∃ t u, exec i s = .next t ∧ exec i (s.setFlag .d d) = .next u ∧ u.a = t.a ∧ u.cycles = t.cycles ∧
      u.flag .c = t.flag .c ∧ u.flag .v = t.flag .v ∧ u.flag .n = t.flag .n ∧ u.flag .z = t.flag .z := by
  have hu := h (s.setFlag .d d)
  have hcarry : (s.setFlag .d d).flag .c = s.flag .c := by simp
  rw [State.setFlag_a, operandByte_setFlag_d, hcarry] at hu
  refine ⟨_, _, h s, hu, ?sum, ?cycles, ?flags⟩
  case sum => rw [State.withSum_a, State.withSum_a]
  case cycles =>
    simp only [State.withSum_cycles, State.operandRead_cycles, State.advance_cycles, State.setFlag_cycles, State.setFlag_cfg,
      resolve_setFlag_d]
  case flags => simp only [State.withSum_flag, and_self]

/-- Settles O27: neither the operand nor the ALU depends on the decimal flag. -/
theorem decimalFlagChangesNoArithmetic : Obligations.DecimalFlagChangesNoArithmetic := by
  intro o s d i hi
  rw [List.mem_pair] at hi
  obtain rfl | rfl := hi
  · exact decimalFlag_unused aluAdd (exec_adc o) s d
  · exact decimalFlag_unused aluSub (exec_sbc o) s d

end Sys2Proof.Machine
end

section
/-! PROOFS. The logical instructions, the compares and the bit test (spec/43_arith_logic_shift.md R232 to R238). -/

namespace Sys2Proof.Machine

/-! ### AND, ORA and EOR -/

theorem exec_and (o : Operand) (s : State) : exec (.and o) s =
    .next (((s.operandRead (.and o)).setA (s.a &&& s.operandByte o)).setNZ (s.a &&& s.operandByte o)) := by
  rw [← s.operandRead_a (.and o)]
  exact congrArg Host.Outcome.next (withOperand_advance s (.and o) _)

theorem exec_ora (o : Operand) (s : State) : exec (.ora o) s =
    .next (((s.operandRead (.ora o)).setA (s.a ||| s.operandByte o)).setNZ (s.a ||| s.operandByte o)) := by
  rw [← s.operandRead_a (.ora o)]
  exact congrArg Host.Outcome.next (withOperand_advance s (.ora o) _)

theorem exec_eor (o : Operand) (s : State) : exec (.eor o) s =
    .next (((s.operandRead (.eor o)).setA (s.a ^^^ s.operandByte o)).setNZ (s.a ^^^ s.operandByte o)) := by
  rw [← s.operandRead_a (.eor o)]
  exact congrArg Host.Outcome.next (withOperand_advance s (.eor o) _)

/-- An instruction that writes a byte to A and sets N and Z from it. -/
theorem exec_setA_setNZ {i : Instr} {s : State} {v : Byte}
    (h : exec i s = .next (((s.operandRead i).setA v).setNZ v)) :
    ∃ t, exec i s = .next t ∧ t.a = v ∧ NZOf v t ∧ Advanced i s t ∧
      RegisterEffect [.a] [.n, .z] (s.afterRead i.operand) s t := by
  refine ⟨_, h, rfl, State.setNZ_nzOf .., (s.operandRead_advanced i).of_eq rfl rfl, ?_⟩
  unfold State.setNZ
  rw [State.setA_p, State.operandRead_p]
  exact .of_setA_setP (s.setP_putNZ_kept v) (by decide)

/-- Settles O28: each instruction writes its result to A. -/
theorem logicalInstructions : Obligations.LogicalInstructions :=
  ⟨.of_map rfl, .of_map rfl, .of_map rfl, fun o s =>
    ⟨exec_setA_setNZ (exec_and o s), exec_setA_setNZ (exec_ora o s), exec_setA_setNZ (exec_eor o s)⟩⟩

/-! ### CMP, CPX, CPY and BIT -/

/-- The zero output of a compare (spec/41_alu.md R182). -/
theorem aluCmp_z_iff (reg m : Byte) : (aluCmp reg m).z = true ↔ reg = m :=
  decide_eq_true_iff.trans sub_eq_zero

theorem exec_cmp (o : Operand) (s : State) : exec (.cmp o) s =
    .next ((s.operandRead (.cmp o)).setP (putCmp s.p (aluCmp s.a (s.operandByte o)))) := by
  rw [← s.operandRead_p (.cmp o), ← s.operandRead_a (.cmp o)]
  exact congrArg Host.Outcome.next (withOperand_advance s (.cmp o) _)

theorem exec_cpx (o : Operand) (s : State) : exec (.cpx o) s =
    .next ((s.operandRead (.cpx o)).setP (putCmp s.p (aluCmp s.x (s.operandByte o)))) := by
  rw [← s.operandRead_p (.cpx o), ← s.operandRead_x (.cpx o)]
  exact congrArg Host.Outcome.next (withOperand_advance s (.cpx o) _)

theorem exec_cpy (o : Operand) (s : State) : exec (.cpy o) s =
    .next ((s.operandRead (.cpy o)).setP (putCmp s.p (aluCmp s.y (s.operandByte o)))) := by
  rw [← s.operandRead_p (.cpy o), ← s.operandRead_y (.cpy o)]
  exact congrArg Host.Outcome.next (withOperand_advance s (.cpy o) _)

theorem exec_bit (o : Operand) (s : State) : exec (.bit o) s =
    .next ((s.operandRead (.bit o)).setP (putBit s.p (aluBit s.a (s.operandByte o)))) := by
  rw [← s.operandRead_p (.bit o), ← s.operandRead_a (.bit o)]
  exact congrArg Host.Outcome.next (withOperand_advance s (.bit o) _)

/-- A compare of a byte with the operand. -/
theorem exec_compare {i : Instr} {s : State} {reg m : Byte}
    (h : exec i s = .next ((s.operandRead i).setP (putCmp s.p (aluCmp reg m)))) :
    ∃ t, exec i s = .next t ∧ (t.flag .c = true ↔ m.toNat ≤ reg.toNat) ∧ (t.flag .z = true ↔ reg = m) ∧
      t.flag .n = (reg - m).getLsbD 7 ∧ Advanced i s t ∧
      RegisterEffect [] [.n, .z, .c] (s.afterRead i.operand) s t := by
  refine ⟨_, h, ?carry, ?zero, ?negative, (s.operandRead_advanced i).of_eq rfl rfl,
    .of_setP (s.setP_putCmp_kept _) (by decide)⟩
  all_goals rw [State.setP_flag, getFlag_putCmp]
  case carry => exact decide_eq_true_iff
  case zero => exact aluCmp_z_iff reg m
  case negative => rfl

/-- N and V of a bit test come from the operand, Z from its conjunction with A. -/
theorem exec_bitTest {i : Instr} {s : State} {m : Byte}
    (h : exec i s = .next ((s.operandRead i).setP (putBit s.p (aluBit s.a m)))) :
    ∃ t, exec i s = .next t ∧ (t.flag .z = true ↔ s.a &&& m = 0) ∧ t.flag .v = m.getLsbD 6 ∧
      t.flag .n = m.getLsbD 7 ∧ Advanced i s t ∧
      RegisterEffect [] [.n, .v, .z] (s.afterRead i.operand) s t := by
  refine ⟨_, h, ?zero, ?overflow, ?negative, (s.operandRead_advanced i).of_eq rfl rfl,
    .of_setP (s.setP_putBit_kept _) (by decide)⟩
  all_goals rw [State.setP_flag, getFlag_putBit]
  case zero => exact decide_eq_true_iff
  case overflow => rfl
  case negative => rfl

/-- Settles O29: three compares and the bit test, at the operand that the instruction reads. -/
theorem compareAndBitTest : Obligations.CompareAndBitTest :=
  ⟨.of_map rfl, .of_map rfl, .of_map rfl, .of_map rfl, fun o s =>
    ⟨exec_compare (exec_cmp o s), exec_compare (exec_cpx o s), exec_compare (exec_cpy o s), exec_bitTest (exec_bit o s)⟩⟩

end Sys2Proof.Machine
end

section
/-! PROOFS. The instructions that write their operand back: INC and DEC (spec/43_arith_logic_shift.md R239, R240), and the shifts
and rotates in accumulator mode and in the memory modes (R245 to R248). -/

namespace Sys2Proof.Machine

/-! ### INC and DEC -/

theorem exec_inc (o : Operand) (s : State) : exec (.inc o) s =
    .next (((s.operandRead (.inc o)).busWrite (resolve o s).ea (aluInc (s.operandByte o))).setNZ
      (aluInc (s.operandByte o))) := congrArg Host.Outcome.next (withOperand_advance s (.inc o) _)

theorem exec_dec (o : Operand) (s : State) : exec (.dec o) s =
    .next (((s.operandRead (.dec o)).busWrite (resolve o s).ea (aluDec (s.operandByte o))).setNZ
      (aluDec (s.operandByte o))) := congrArg Host.Outcome.next (withOperand_advance s (.dec o) _)

theorem aluInc_toNat (v : Byte) : (aluInc v).toNat = (v.toNat + 1) % 256 := BitVec.toNat_add ..

theorem aluDec_toNat (v : Byte) : (aluDec v).toNat = (v.toNat + 255) % 256 := by
  rw [Nat.add_comm]
  exact BitVec.toNat_sub ..

/-- An instruction that reads its operand, stores a byte in its place and sets N and Z from it. -/
theorem exec_busWrite_setNZ {i : Instr} {s : State} {v : Byte}
    (h : exec i s = .next (((s.operandRead i).busWrite (resolve i.operand s).ea v).setNZ v)) :
    ∃ t, exec i s = .next t ∧ NZOf v t ∧ Advanced i s t ∧
      StoreEffect [] [.n, .z] [((resolve i.operand s).ea, v)]
        ((s.afterRead i.operand).busWrite (resolve i.operand s).ea v) s t :=
  ⟨_, h, State.setNZ_nzOf .., (s.operandRead_advanced i).of_eq rfl rfl,
    .of_busWrite_setNZ (.refl _) (fun r _ => s.operandRead_reg i r) (fun f _ => s.operandRead_flag i f) (by decide)
      (by decide) (s.operandRead_halted i) (s.operandRead_returned i) _ v⟩

/-- Settles O30: each instruction stores its result at the address of its operand. -/
theorem incrementAndDecrementMemory : Obligations.IncrementAndDecrementMemory :=
  ⟨.of_map rfl, .of_map rfl, fun o s =>
    ⟨⟨_, aluInc_toNat _, exec_busWrite_setNZ (exec_inc o s)⟩, ⟨_, aluDec_toNat _, exec_busWrite_setNZ (exec_dec o s)⟩⟩⟩

/-! ### ASL, LSR, ROL and ROR -/

/-- The carry in of ROR as bit 7 of a byte (spec/41_alu.md R181). -/
theorem carryByte_shiftLeft_seven (c : Bool) : carryByte c <<< 7 = if c = true then 0x80 else 0 := by
  cases c <;> rfl

/-- Outside accumulator mode the result is written to memory. -/
theorem writeBack_of_ne_acc {o : Operand} (ho : o ≠ .acc) (r : Resolved) (v : Byte) (s : State) :
    writeBack o r v s = s.busWrite r.ea v := by
  cases o with
  | acc => exact absurd rfl ho
  | _ => rfl

/-- The execution function of the shifts and rotates, through the shifted operand. -/
theorem perform_shiftM (f : Byte → Bool → ShiftOut) (i : Instr) (s : State) :
    let out := f (s.operandByte i.operand) (s.flag .c)
    perform i (shiftM f i.operand) s =
      .next ((writeBack i.operand (resolve i.operand s) out.r ((s.operandRead i).setFlag .c out.c)).setNZ out.r) := by
  intro out
  dsimp only [out]
  rw [← s.operandRead_flag i]
  exact congrArg Host.Outcome.next (withOperand_advance s i _)

/-- A shift or rotate in accumulator mode makes no access (spec/43_arith_logic_shift.md R245 to R248). -/
theorem exec_shift_acc (i : Instr) (f : Byte → Bool → ShiftOut) {s : State} (hi : i.operand = .acc)
    (h : exec i s = perform i (shiftM f i.operand) s) :
    let out := f s.a (s.flag .c)
    ∃ t, exec i s = .next t ∧ t.a = out.r ∧ NZOf t.a t ∧ t.flag .c = out.c ∧ Advanced i s t ∧
      RegisterEffect [.a] [.n, .z, .c] s s t := by
  intro out
  have hexec : exec i s = .next (((s.operandRead i).setA out.r).setP (putCNZ s.p out)) := by
    rw [h, perform_shiftM, ← s.operandRead_p i, hi]
    rfl
  have heffect : RegisterEffect [.a] [.n, .z, .c] (s.afterRead i.operand) s
      (((s.operandRead i).setA out.r).setP (putCNZ s.p out)) := .of_setA_setP (s.setP_putCNZ_kept out) (by decide)
  rw [hi] at heffect
  exact ⟨_, hexec, rfl, ⟨by simp [getFlag_putCNZ], by simp [getFlag_putCNZ, bit7]⟩, by simp [getFlag_putCNZ],
    (s.operandRead_advanced i).of_eq rfl rfl, heffect⟩

/-- A shift or rotate in a memory mode reads its operand and stores the result in its place. -/
theorem exec_shift_memory (i : Instr) (f : Byte → Bool → ShiftOut) {s : State} (hi : i.operand ≠ .acc)
    (h : exec i s = perform i (shiftM f i.operand) s) :
    let out := f (s.operandByte i.operand) (s.flag .c)
    ∃ v t, v = out.r ∧ exec i s = .next t ∧ NZOf v t ∧ t.flag .c = out.c ∧ Advanced i s t ∧
      StoreEffect [] [.n, .z, .c] [((resolve i.operand s).ea, v)]
        ((s.afterRead i.operand).busWrite (resolve i.operand s).ea v) s t := by
  intro out
  rw [h, perform_shiftM, writeBack_of_ne_acc hi]
  have halike : BusAlike (s.operandRead i) ((s.operandRead i).setFlag .c out.c) := (BusAlike.refl _).setFlag .c _ (by decide)
  refine ⟨out.r, _, rfl, rfl, State.setNZ_nzOf .., by simp [out], (s.operandRead_advanced i).of_eq rfl rfl,
    .of_busWrite_setNZ halike (fun r _ => by simp) (fun f hf => ?_) (by decide) (by decide) (by simp) (by simp) _ _⟩
  have hne : f ≠ .c := (ne_of_mem_of_not_mem (by decide) hf).symm
  rw [State.setFlag_flag, if_neg hne, State.operandRead_flag]

/-- Settles O32: the rows, then the four instructions in accumulator mode and in the memory modes. -/
theorem shiftsAndRotates : Obligations.ShiftsAndRotates := by
  refine ⟨.of_map rfl, .of_map rfl, .of_map rfl, .of_map rfl, fun s => ?accumulator, fun o s ho => ?memory⟩
  all_goals rw [← carryByte_shiftLeft_seven]
  case accumulator =>
    exact ⟨exec_shift_acc (.asl .acc) (fun v _ => aluAsl v) rfl rfl, exec_shift_acc (.lsr .acc) (fun v _ => aluLsr v) rfl rfl,
      exec_shift_acc (.rol .acc) aluRol rfl rfl, exec_shift_acc (.ror .acc) aluRor rfl rfl⟩
  case memory =>
    exact ⟨exec_shift_memory (.asl o) (fun v _ => aluAsl v) ho rfl, exec_shift_memory (.lsr o) (fun v _ => aluLsr v) ho rfl,
      exec_shift_memory (.rol o) aluRol ho rfl, exec_shift_memory (.ror o) aluRor ho rfl⟩

end Sys2Proof.Machine
end

section
/-! PROOFS. Loads, stores and register transfers (spec/42_load_store_transfer.md), with the combined loads LAX and LAS
(spec/46_undocumented.md R338, R348) and the combined store SAX (R337). Loads and transfers share one shape: one byte is written
to some registers, and N and Z follow it. -/

namespace Sys2Proof.Machine

/-! ### One byte written to several registers -/

/-- Every listed register gets the byte v. -/
def State.setRegs (s : State) (rs : List Reg) (v : Byte) : State :=
  { s with
    a := if .a ∈ rs then v else s.a
    x := if .x ∈ rs then v else s.x
    y := if .y ∈ rs then v else s.y
    sp := if .sp ∈ rs then v else s.sp }

/-- Every listed register gets the byte v, and N and Z follow it: the effect of a load or a transfer. -/
def State.loadRegs (s : State) (rs : List Reg) (v : Byte) : State := (s.setRegs rs v).setNZ v

theorem State.setRegs_reg (s : State) (rs : List Reg) (v : Byte) (r : Reg) :
    (s.setRegs rs v).reg r = if r ∈ rs then v else s.reg r := by
  cases r <;> rfl

/-- Writing registers changes nothing on the bus. -/
theorem State.setRegs_alike (s : State) (rs : List Reg) (v : Byte) : BusAlike s (s.setRegs rs v) :=
  ⟨rfl, rfl, rfl, rfl, rfl, rfl, rfl, rfl⟩

section
variable {regs : List Reg} {u s t : State}

/-- Registers written after an effect that wrote none. -/
theorem RegisterEffect.setRegs {flags : List Flag} (h : RegisterEffect [] flags u s t) (rs : List Reg) (v : Byte) :
    RegisterEffect rs flags u s (t.setRegs rs v) where
  regs r hr := by rw [State.setRegs_reg, if_neg hr, h.regs r List.not_mem_nil]
  flags := h.flags
  control := ⟨h.control.halted, h.control.cfg, h.control.returned⟩
  storage := h.storage.trans (t.setRegs_alike rs v).kept
  outside := ⟨h.outside.events, h.outside.pending, h.outside.stall, h.outside.replies⟩

/-- N and Z set after an effect that wrote no flag. -/
theorem RegisterEffect.setNZ (h : RegisterEffect regs [] u s t) (v : Byte) :
    RegisterEffect regs [.n, .z] u s (t.setNZ v) where
  regs := h.regs.setNZ v
  flags := FlagsKept.setNZ (fun f _ => h.flags f List.not_mem_nil) (by decide) (by decide) v
  control := ⟨h.control.halted, h.control.cfg, h.control.returned⟩
  storage := h.storage.trans ((BusAlike.refl t).setNZ v).kept
  outside := ⟨h.outside.events, h.outside.pending, h.outside.stall, h.outside.replies⟩

/-- Flags, PC, cycles and frame of a load or a transfer, from those of the state t on which it writes its registers. -/
theorem State.loadRegs_effect {i : Instr} (hadvanced : Advanced i s t) (h : RegisterEffect [] [] u s t) (v : Byte) :
    NZOf v (t.loadRegs regs v) ∧ Advanced i s (t.loadRegs regs v) ∧
      RegisterEffect regs [.n, .z] u s (t.loadRegs regs v) :=
  ⟨State.setNZ_nzOf .., hadvanced.of_eq rfl rfl, (h.setRegs regs v).setNZ v⟩

end

/-! ### Loads -/

@[simp] theorem State.operandRead_sp (s : State) (i : Instr) : (s.operandRead i).sp = s.sp := s.operandRead_reg i .sp

/-- Up to its operand read an instruction has the effect of its reads only. -/
theorem State.operandRead_effect (s : State) (i : Instr) : RegisterEffect [] [] (s.afterRead i.operand) s (s.operandRead i) :=
  .of_alike (s.operandRead_alike i) (s.operandRead_kept i) (fun r _ => s.operandRead_reg i r)
    (fun f _ => s.operandRead_flag i f) (s.operandRead_halted i) (s.operandRead_returned i)

theorem State.load_effect (s : State) (i : Instr) (rs : List Reg) (v : Byte) :
    NZOf v ((s.operandRead i).loadRegs rs v) ∧ Advanced i s ((s.operandRead i).loadRegs rs v) ∧
      RegisterEffect rs [.n, .z] (s.afterRead i.operand) s ((s.operandRead i).loadRegs rs v) :=
  State.loadRegs_effect (s.operandRead_advanced i) (s.operandRead_effect i) v

theorem exec_lda (o : Operand) (s : State) :
    exec (.lda o) s = .next ((s.operandRead (.lda o)).loadRegs [.a] (s.operandByte o)) :=
  congrArg Host.Outcome.next (withOperand_advance s (.lda o) fun m t => t.loadRegs [.a] m)

theorem exec_ldx (o : Operand) (s : State) :
    exec (.ldx o) s = .next ((s.operandRead (.ldx o)).loadRegs [.x] (s.operandByte o)) :=
  congrArg Host.Outcome.next (withOperand_advance s (.ldx o) fun m t => t.loadRegs [.x] m)

theorem exec_ldy (o : Operand) (s : State) :
    exec (.ldy o) s = .next ((s.operandRead (.ldy o)).loadRegs [.y] (s.operandByte o)) :=
  congrArg Host.Outcome.next (withOperand_advance s (.ldy o) fun m t => t.loadRegs [.y] m)

theorem exec_lax (o : Operand) (s : State) :
    exec (.lax o) s = .next ((s.operandRead (.lax o)).loadRegs [.a, .x] (s.operandByte o)) :=
  congrArg Host.Outcome.next (withOperand_advance s (.lax o) fun m t => t.loadRegs [.a, .x] m)

theorem exec_las (w : Word) (s : State) : exec (.las w) s =
    .next ((s.operandRead (.las w)).loadRegs [.a, .x, .sp] (s.operandByte (.aby w) &&& s.sp)) := by
  rw [← s.operandRead_sp (.las w)]
  exact congrArg Host.Outcome.next (withOperand_advance s (.las w) fun m t => t.loadRegs [.a, .x, .sp] (m &&& t.sp))

/-- Settles O22: each load writes the byte that it reads, LAS after masking it with S. -/
theorem loadInstructions : Obligations.LoadInstructions := by
  refine ⟨.of_map rfl, .of_map rfl, .of_map rfl, .of_map rfl, fun o s => ⟨?lda, ?ldx, ?ldy, fun _ => ?lax⟩, .of_map rfl,
    fun w s => ?las⟩
  case lda => exact ⟨_, exec_lda o s, rfl, s.load_effect (.lda o) [.a] _⟩
  case ldx => exact ⟨_, exec_ldx o s, rfl, s.load_effect (.ldx o) [.x] _⟩
  case ldy => exact ⟨_, exec_ldy o s, rfl, s.load_effect (.ldy o) [.y] _⟩
  case lax => exact ⟨_, exec_lax o s, rfl, rfl, s.load_effect (.lax o) [.a, .x] _⟩
  case las => exact ⟨_, exec_las w s, rfl, rfl, rfl, s.load_effect (.las w) [.a, .x, .sp] _⟩

/-! ### Stores -/

theorem exec_stx (o : Operand) (s : State) :
    exec (.stx o) s = .next ((s.advance (.stx o)).busWrite (resolve o s).ea s.x) := by
  rw [← s.advance_x (.stx o)]
  rfl

theorem exec_sty (o : Operand) (s : State) :
    exec (.sty o) s = .next ((s.advance (.sty o)).busWrite (resolve o s).ea s.y) := by
  rw [← s.advance_y (.sty o)]
  rfl

theorem exec_sax (o : Operand) (s : State) :
    exec (.sax o) s = .next ((s.advance (.sax o)).busWrite (resolve o s).ea (s.a &&& s.x)) := by
  rw [← s.advance_a (.sax o), ← s.advance_x (.sax o)]
  rfl

/-- Settles O23: the one access of each store after its resolver's reads is its write. -/
theorem storeInstructions : Obligations.StoreInstructions :=
  ⟨.of_map rfl, .of_map rfl, .of_map rfl, .of_map rfl, fun o s =>
    ⟨exec_store _ _ rfl (exec_sta o s), exec_store _ _ rfl (exec_stx o s), exec_store _ _ rfl (exec_sty o s),
      exec_store _ _ rfl (exec_sax o s)⟩⟩

/-! ### Transfers -/

/-- An instruction whose resolver follows no pointer has made no access when its own effect begins. -/
theorem State.advance_effect (s : State) (i : Instr) (h : pointerReads i.operand s = []) :
    RegisterEffect [] [] s s (s.advance i) :=
  .of_alike (State.advance_alike_self i h) (s.advance_kept i) (fun r _ => s.advance_reg i r)
    (fun f _ => s.advance_flag i f) (s.advance_halted i) (s.advance_returned i)

/-- A transfer of the byte v to the register r, with N and Z. -/
theorem exec_transfer {i : Instr} {s : State} {r : Reg} {v : Byte} (hi : pointerReads i.operand s = [])
    (h : exec i s = .next ((s.advance i).loadRegs [r] v)) :
    ∃ t, exec i s = .next t ∧ t.reg r = v ∧ NZOf v t ∧ Advanced i s t ∧ RegisterEffect [r] [.n, .z] s s t :=
  ⟨_, h, (State.setRegs_reg ..).trans (if_pos (List.mem_singleton_self r)),
    State.loadRegs_effect (s.advance_advanced i) (s.advance_effect i hi) v⟩

/-- Settles O24: five transfers set N and Z from the byte they copy, and TXS writes S alone. -/
theorem transferInstructions : Obligations.TransferInstructions := by
  refine ⟨.of_map rfl, .of_map rfl, .of_map rfl, .of_map rfl, .of_map rfl, .of_map rfl, fun s =>
    ⟨?tax, ?tay, ?txa, ?tya, ?tsx, ?txs⟩⟩
  case tax => exact exec_transfer (i := .tax) (r := .x) rfl rfl
  case tay => exact exec_transfer (i := .tay) (r := .y) rfl rfl
  case txa => exact exec_transfer (i := .txa) (r := .a) rfl rfl
  case tya => exact exec_transfer (i := .tya) (r := .a) rfl rfl
  case tsx => exact exec_transfer (i := .tsx) (r := .x) rfl rfl
  case txs =>
    exact ⟨(s.advance .txs).setRegs [.sp] s.x, rfl, rfl, (s.advance_advanced .txs).of_eq rfl rfl,
      (s.advance_effect .txs rfl).setRegs [.sp] s.x⟩

end Sys2Proof.Machine
end

section
/-! PROOFS. INX, INY, DEX and DEY (spec/43_arith_logic_shift.md R241 to R244): each is a transfer of a register's own value, one
up or one down, back to the register. -/

namespace Sys2Proof.Machine

/-- A transfer to the register r of a byte that is n in numbers, with N and Z read off the register after it. -/
theorem exec_transfer_toNat {i : Instr} {s : State} {r : Reg} {v : Byte} {n : Nat} (hv : v.toNat = n)
    (hi : pointerReads i.operand s = []) (h : exec i s = .next ((s.advance i).loadRegs [r] v)) :
    ∃ t, exec i s = .next t ∧ (t.reg r).toNat = n ∧ NZOf (t.reg r) t ∧ Advanced i s t ∧
      RegisterEffect [r] [.n, .z] s s t := by
  obtain ⟨t, hexec, rfl, hnz, hadvanced, heffect⟩ := exec_transfer hi h
  exact ⟨t, hexec, hv, hnz, hadvanced, heffect⟩

/-- Settles O31: each instruction transfers the sum or difference to its register, and no pointer is followed. -/
theorem incrementAndDecrementRegisters : Obligations.IncrementAndDecrementRegisters := by
  refine ⟨.of_map rfl, .of_map rfl, .of_map rfl, .of_map rfl, fun s => ⟨?inx, ?iny, ?dex, ?dey⟩⟩
  case inx => exact exec_transfer_toNat (i := .inx) (r := .x) (aluInc_toNat s.x) rfl rfl
  case iny => exact exec_transfer_toNat (i := .iny) (r := .y) (aluInc_toNat s.y) rfl rfl
  case dex => exact exec_transfer_toNat (i := .dex) (r := .x) (aluDec_toNat s.x) rfl rfl
  case dey => exact exec_transfer_toNat (i := .dey) (r := .y) (aluDec_toNat s.y) rfl rfl

end Sys2Proof.Machine
end

section
/-! PROOFS. Jumps, calls, returns and BRK (spec/44_control_flow.md R279 to R284): each is one stack operation, or none, on the
advanced state, and looks from the bus like the state with its accesses made (`BusAlike`). -/

namespace Sys2Proof.Machine

/-! ### The advanced state -/

/-- An instruction that crosses no page costs its base cycles (spec/40_step_and_addressing.md R155, R157). -/
theorem State.advance_cycles_base {s : State} {i : Instr} (h : (resolve i.operand s).crossed = false) :
    (s.advance i).cycles = s.cycles + BitVec.ofNat 64 i.baseCycles := by
  rw [State.advance_cycles, h, stepCycles_not_crossed]

/-- Only S of the four byte registers is written. -/
theorem RegsKept.of_axy {s t : State} (ha : t.a = s.a) (hx : t.x = s.x) (hy : t.y = s.y) : RegsKept [.sp] s t := by
  intro r hr
  cases r with
  | a => exact ha
  | x => exact hx
  | y => exact hy
  | sp => exact absurd (List.mem_singleton_self _) hr

/-- States that look alike from the bus do so with any two flag bytes of the same I. -/
theorem BusAlike.setP_setP {s t : State} (h : BusAlike s t) {p q : Byte} (hi : getFlag q .i = getFlag p .i) :
    BusAlike (s.setP p) (t.setP q) :=
  ⟨h.ram, h.cart, h.cfg, h.replies, h.pending, h.stall, h.events, hi⟩

theorem BusAlike.setFlag_setFlag {s t : State} (h : BusAlike s t) (f : Flag) (v : Bool) :
    BusAlike (s.setFlag f v) (t.setFlag f v) :=
  h.setP_setP (by rw [getFlag_putFlag, getFlag_putFlag]; exact congrArg (ite _ _) h.masked)

/-! ### JMP (spec/44_control_flow.md R279, R280) -/

/-- An instruction that writes PC alone makes its resolver's reads and no other access. -/
theorem State.advance_setPc_effect (s : State) (i : Instr) (w : Word) :
    RegisterEffect [] [] (s.afterPointer i.operand) s ((s.advance i).setPc w) :=
  .of_alike ((s.advance_alike i).setPc w) ((s.advance_kept i).trans (.of_eq rfl rfl rfl)) (fun r _ => by simp)
    (fun f _ => by simp) (by simp) (by simp)

/-- Settles O34: PC is the effective address, and the accesses are those of the pointer, if there is one. -/
theorem jumps : Obligations.Jumps := by
  refine ⟨.of_map rfl, fun w s => ⟨?absolute, nextInPage w, nextInPage_toNat w, ?indirect⟩⟩
  case absolute =>
    exact ⟨_, rfl, rfl, State.advance_cycles_base (i := .jmp (.abs w)) rfl, s.advance_setPc_effect (.jmp (.abs w)) w⟩
  case indirect =>
    exact ⟨_, rfl, rfl, State.advance_cycles_base (i := .jmp (.ind w)) rfl,
      s.advance_setPc_effect (.jmp (.ind w)) (s.read16Wrap w)⟩

/-! ### JSR and RTS (spec/44_control_flow.md R281, R282) -/

/-- JSR pushes the address of its last byte. -/
theorem exec_jsr (w : Word) (s : State) :
    exec (.jsr w) s = .next (((s.advance (.jsr w)).push16 (s.pc + 2)).setPc w) := by
  rw [← word_three_sub_one]
  rfl

theorem exec_jsr_effect (w : Word) (s : State) :
    let stores := [(stackAddr s.sp, hi (s.pc + 2)), (stackAddr (s.sp - 1), lo (s.pc + 2))]
    StoreEffect [.sp] [] stores (s.busWrites stores) s (((s.advance (.jsr w)).push16 (s.pc + 2)).setPc w) := by
  intro stores
  have hadvance : BusAlike s (s.advance (.jsr w)) := State.advance_alike_self _ rfl
  have hpush := (s.advance (.jsr w)).push16_alike (s.pc + 2)
  rw [State.advance_sp] at hpush
  have halike := ((hadvance.busWrites stores).trans hpush).setPc w
  exact .of_alike halike ((s.busWrites_stored stores).congr (.refl s) halike.kept) (.of_axy (by simp) (by simp) (by simp))
    (fun f _ => by simp) (by simp) (by simp) (by simp)

/-- The word that RTS and RTI pull, from any state that looks alike from the bus. -/
theorem BusAlike.popped16 {s t : State} (h : BusAlike s t) (hsp : t.sp = s.sp) :
    t.popped16 = w16 ((s.busRead (stackAddr (s.sp + 1))).peek (stackAddr (s.sp + 2))) (s.peek (stackAddr (s.sp + 1))) := by
  rw [State.popped16_eq, hsp, byte_add_two, h.peek, (h.busRead _).peek]

theorem BusAlike.pop16 {s t : State} (h : BusAlike s t) (hsp : t.sp = s.sp) :
    BusAlike (s.busReads [stackAddr (s.sp + 1), stackAddr (s.sp + 2)]) t.pop16 := by
  have hpop := t.pop16_alike
  rw [hsp, byte_add_two] at hpop
  exact (h.busReads _).trans hpop

theorem exec_rts_effect (s : State) :
    RegisterEffect [.sp] [] (s.busReads [stackAddr (s.sp + 1), stackAddr (s.sp + 2)]) s
      ((s.advance .rts).pop16.setPc ((s.advance .rts).popped16 + 1)) := by
  have hadvance : BusAlike s (s.advance .rts) := State.advance_alike_self _ rfl
  have halike := (hadvance.pop16 (s.advance_sp .rts)).setPc ((s.advance .rts).popped16 + 1)
  exact .of_alike halike ((s.busReads_kept _).trans halike.kept) (.of_axy (by simp) (by simp) (by simp))
    (fun f _ => by simp) (by simp) (by simp)

/-- Settles O35: JSR is `push16` and RTS is `pop16`, each on the advanced state. -/
theorem subroutineCallAndReturn : Obligations.SubroutineCallAndReturn := by
  refine ⟨.of_map rfl, .of_map rfl, fun w s => ?jsr, fun s => ?rts⟩
  case jsr =>
    refine ⟨_, exec_jsr w s, rfl, ?_, ?_, exec_jsr_effect w s⟩
    · rw [State.setPc_sp, State.push16_sp, State.advance_sp, byte_sub_two]
    · rw [State.setPc_cycles, State.push16_cycles]
      exact State.advance_cycles_base rfl
  case rts =>
    have hadvance : BusAlike s (s.advance .rts) := State.advance_alike_self _ rfl
    refine ⟨_, rfl, congrArg (· + 1) (hadvance.popped16 (s.advance_sp .rts)), ?_, ?_, exec_rts_effect s⟩
    · rw [State.setPc_sp, State.pop16_sp, State.advance_sp, byte_add_two]
    · rw [State.setPc_cycles, State.pop16_cycles]
      exact State.advance_cycles_base rfl

/-! ### BRK (spec/44_control_flow.md R283) -/

/-- BRK returns to the byte after its padding byte. -/
theorem exec_brk (s : State) :
    exec .brk s = .next ((s.advance .brk).enterException (s.pc + 2) (pushedBySoftware s.p) s.cfg.vecIrq) := by
  rw [← word_add_two, ← s.advance_p .brk, ← s.advance_cfg .brk]
  rfl

/-- The stores of an exception entry: the return address, then the flags, from the slot of S down. -/
def exceptionFrame (sp : Byte) (returnTo : Word) (flags : Byte) : List (Word × Byte) :=
  [(stackAddr sp, hi returnTo), (stackAddr (sp - 1), lo returnTo), (stackAddr (sp - 2), flags)]

/-- The pushes of an exception entry, from any state that looks alike from the bus. -/
theorem BusAlike.push_frame {s t : State} (h : BusAlike s t) (hsp : t.sp = s.sp) (returnTo : Word) (flags : Byte) :
    BusAlike (s.busWrites (exceptionFrame s.sp returnTo flags)) ((t.push16 returnTo).push flags) := by
  have hpush := t.push_frame_alike returnTo flags
  rw [hsp, byte_sub_two] at hpush
  exact (h.busWrites _).trans hpush

/-- The accesses of an exception entry, from any state that looks alike from the bus. -/
theorem BusAlike.enterException {s t : State} (h : BusAlike s t) (hsp : t.sp = s.sp) (returnTo : Word) (flags : Byte)
    (vector : Word) :
    BusAlike (((s.busWrites (exceptionFrame s.sp returnTo flags)).setFlag .i true).busReads [vector, vector + 1])
      (t.enterException returnTo flags vector) :=
  (((h.push_frame hsp returnTo flags).setFlag_setFlag .i true).busReads _).setPc _

theorem exec_brk_effect (s : State) :
    let stores := exceptionFrame s.sp (s.pc + 2) (pushedBySoftware s.p)
    StoreEffect [.sp] [.i] stores (((s.busWrites stores).setFlag .i true).busReads [s.cfg.vecIrq, s.cfg.vecIrq + 1]) s
      ((s.advance .brk).enterException (s.pc + 2) (pushedBySoftware s.p) s.cfg.vecIrq) := by
  intro stores
  have hadvance : BusAlike s (s.advance .brk) := State.advance_alike_self _ rfl
  have halike := hadvance.enterException (s.advance_sp .brk) (s.pc + 2) (pushedBySoftware s.p) s.cfg.vecIrq
  have hreads : StorageKept (s.busWrites stores)
      (((s.busWrites stores).setFlag .i true).busReads [s.cfg.vecIrq, s.cfg.vecIrq + 1]) := .of_eq rfl rfl rfl
  exact .of_alike halike ((s.busWrites_stored stores).congr (.refl s) (hreads.trans halike.kept))
    (.of_axy (by simp) (by simp) (by simp)) (fun f hf => by simp [List.ne_of_not_mem_cons hf]) (by simp) (by simp) (by simp)

/-- Settles O36: BRK is `enterException` on the advanced state. -/
theorem breakInstruction : Obligations.BreakInstruction := by
  refine ⟨.of_map rfl, fun s => ?_⟩
  have hadvance : BusAlike s (s.advance .brk) := State.advance_alike_self _ rfl
  refine ⟨_, exec_brk s, ?_, by simp, ?_, ?_, exec_brk_effect s⟩
  · rw [State.enterException_sp, State.advance_sp, byte_sub_three]
  · exact ((hadvance.push_frame (s.advance_sp .brk) _ _).setFlag_setFlag .i true).read16 s.cfg.vecIrq
  · rw [State.enterException_cycles]
    exact State.advance_cycles_base rfl

/-! ### RTI (spec/44_control_flow.md R284) -/

/-- The state after a return from an exception has read its flags, with S not yet written. -/
def State.flagsPulled (s : State) : State :=
  (s.busRead (stackAddr (s.sp + 1))).setP (pulledFlags (s.peek (stackAddr (s.sp + 1))))

section
variable {s t : State} (h : BusAlike s t) (hsp : t.sp = s.sp)
include h hsp

theorem BusAlike.flagsPulled : BusAlike s.flagsPulled t.flagsPulled := by
  unfold State.flagsPulled
  rw [hsp, h.peek]
  exact (h.busRead _).setP_setP rfl

/-- The accesses of a return from an exception, from any state that looks alike from the bus. -/
theorem BusAlike.returnFromException :
    BusAlike (s.flagsPulled.busReads [stackAddr (s.sp + 2), stackAddr (s.sp + 3)]) t.returnFromException := by
  have hreturn : BusAlike (t.flagsPulled.busReads _) t.returnFromException := t.returnFromException_alike
  rw [hsp, byte_add_three, byte_add_two] at hreturn
  exact ((h.flagsPulled hsp).busReads _).trans hreturn

theorem BusAlike.returnFromException_pc :
    t.returnFromException.pc = w16 ((s.flagsPulled.busRead (stackAddr (s.sp + 2))).peek (stackAddr (s.sp + 3)))
      (s.flagsPulled.peek (stackAddr (s.sp + 2))) := by
  have hpc := t.returnFromException_pc
  rw [hsp, byte_add_three, byte_add_two] at hpc
  rw [hpc, ((h.busRead _).busRead _).peek, (h.busRead _).peek]
  rfl

theorem BusAlike.returnFromException_p :
    t.returnFromException.p = pulledFlags (s.peek (stackAddr (s.sp + 1))) := by
  rw [State.returnFromException_p, State.popped_eq, hsp, h.peek]

end

theorem exec_rti_effect (s : State) :
    RegisterEffect [.sp] [.c, .z, .i, .d, .b, .u, .v, .n]
      (s.flagsPulled.busReads [stackAddr (s.sp + 2), stackAddr (s.sp + 3)]) s (s.advance .rti).returnFromException := by
  have hadvance : BusAlike s (s.advance .rti) := State.advance_alike_self _ rfl
  have hlisted : ∀ f : Flag, f ∈ [.c, .z, .i, .d, .b, .u, .v, .n] := fun f => by cases f <;> simp
  exact .of_alike (hadvance.returnFromException (s.advance_sp .rti)) (.of_eq (by simp) (by simp) (by simp))
    (.of_axy (by simp) (by simp) (by simp)) (fun f hf => absurd (hlisted f) hf) (by simp) (by simp)

/-- Settles O37: RTI is `returnFromException` on the advanced state. -/
theorem returnFromInterrupt : Obligations.ReturnFromInterrupt := by
  refine ⟨.of_map rfl, fun s => ?_⟩
  have hadvance : BusAlike s (s.advance .rti) := State.advance_alike_self _ rfl
  have hsp := s.advance_sp .rti
  refine ⟨_, rfl, hadvance.returnFromException_p hsp, hadvance.returnFromException_pc hsp, ?_, ?_, exec_rti_effect s⟩
  · rw [State.returnFromException_sp, hsp, byte_add_three]
  · rw [State.returnFromException_cycles]
    exact State.advance_cycles_base rfl

end Sys2Proof.Machine
end

section
/-! PROOFS. A return undoes the entry that pushed its frame (spec/60_exceptions.md R533), where the slots are distinct RAM
cells: memory holds what the entry stored (`Holds`), and the return's reads find it. -/

namespace Sys2Proof.Machine

/-! ### Stores in distinct RAM cells are read back (spec/20_memory.md R85) -/

/-- Every listed byte is in memory at its address. -/
def Holds (ws : List (Word × Byte)) (t : State) : Prop := ∀ q ∈ ws, t.route q.1 ≠ .device ∧ t.peek q.1 = q.2

/-- The listed addresses are answered by the listed RAM cells. -/
def InRam (ws : List (Word × Byte)) (cells : List Nat) (s : State) : Prop :=
  List.Forall₂ (fun q k => s.route q.1 = .ram k) ws cells

section
variable {a b : Word} {v : Byte} {j k : Nat} {s t : State}

/-- A store in RAM moves no window of the bus. -/
theorem Stored.route_of_ram (h : Stored a v s t) (ha : s.route a = .ram j) (b : Word) : t.route b = s.route b := by
  obtain ⟨hcfg, h⟩ := h
  rw [ha] at h
  obtain ⟨-, hcart, -⟩ := h
  exact State.route_congr hcart hcfg b

theorem InRam.of_stored {ws : List (Word × Byte)} {cells : List Nat} (h : InRam ws cells s) (hs : Stored a v s t)
    (ha : s.route a = .ram j) : InRam ws cells t :=
  List.Forall₂.imp (fun q _ hq => (hs.route_of_ram ha q.1).trans hq) h

/-- A store in RAM leaves every other cell. -/
theorem Stored.peek_ram_other (h : Stored a v s t) (ha : s.route a = .ram j) (hb : s.route b = .ram k) (hne : j ≠ k) :
    t.peek b = s.peek b := by
  obtain ⟨-, h⟩ := h
  rw [ha] at h
  obtain ⟨-, -, hpeek⟩ := h
  rw [hpeek b (by simp [hb]), if_neg (by simpa [hb] using hne.symm)]

/-- Stores in RAM leave every cell that is none of theirs. -/
theorem StoredAll.peek_ram_other {ws : List (Word × Byte)} {cells : List Nat} (h : StoredAll ws s t)
    (hcells : InRam ws cells s) (hb : s.route b = .ram k) (hk : k ∉ cells) : t.route b = .ram k ∧ t.peek b = s.peek b := by
  induction ws generalizing s cells with
  | nil => exact ⟨(StorageKept.route h b).trans hb, StorageKept.bytes h b (by simp [hb])⟩
  | cons w ws ih =>
    obtain ⟨m, hm, hrest⟩ := h
    cases hcells with
    | cons hj hcells =>
      obtain ⟨hne, hk⟩ := not_or.mp (List.mem_cons.not.mp hk)
      obtain ⟨hroute, hpeek⟩ := ih hrest (InRam.of_stored hcells hm hj) ((hm.route_of_ram hj b).trans hb) hk
      exact ⟨hroute, hpeek.trans (hm.peek_ram_other hj hb (Ne.symm hne))⟩

/-- Stores in distinct RAM cells are all read back. -/
theorem StoredAll.holds {ws : List (Word × Byte)} {cells : List Nat} (h : StoredAll ws s t) (hcells : InRam ws cells s)
    (hdistinct : cells.Nodup) : Holds ws t := by
  induction ws generalizing s cells with
  | nil => exact fun q hq => absurd hq List.not_mem_nil
  | cons w ws ih =>
    obtain ⟨m, hm, hrest⟩ := h
    cases hcells with
    | cons hj hcells =>
      obtain ⟨hnew, hdistinct⟩ := List.nodup_cons.mp hdistinct
      obtain ⟨hroute, hv⟩ := hm.peek_ram hj
      have htail : InRam ws _ m := InRam.of_stored hcells hm hj
      obtain ⟨hroute', hpeek⟩ := hrest.peek_ram_other htail hroute hnew
      exact List.forall_mem_cons.mpr ⟨⟨by simp [hroute'], hpeek.trans hv⟩, ih hrest htail hdistinct⟩

end

/-! ### The bytes that a return pulls -/

theorem Holds.of_kept {ws : List (Word × Byte)} {s t : State} (h : Holds ws s) (hk : StorageKept s t) : Holds ws t := by
  intro q hq
  obtain ⟨hroute, hpeek⟩ := h q hq
  exact ⟨by rwa [hk.route], (hk.bytes _ hroute).trans hpeek⟩

/-- A held byte is what a read of its address returns. -/
theorem Holds.peek {ws : List (Word × Byte)} {t : State} (h : Holds ws t) {a : Word} {v : Byte} (hq : (a, v) ∈ ws) :
    t.peek a = v := (h _ hq).2

/-- RTS goes on after the word that the stack holds (spec/44_control_flow.md R282). -/
theorem exec_rts_of_holds {t : State} {sp : Byte} {w : Word}
    (h : Holds [(stackAddr sp, hi w), (stackAddr (sp - 1), lo w)] t) (hsp : t.sp = sp - 2) :
    ∃ u, exec .rts t = .next u ∧ u.pc = w + 1 ∧ u.sp = sp := by
  obtain ⟨-, -, -, hrts⟩ := subroutineCallAndReturn
  obtain ⟨u, hexec, hpc, hu, -⟩ := hrts t
  have hlow : t.sp + 1 = sp - 1 := by rw [hsp]; bv_omega
  have hhigh : t.sp + 2 = sp := by rw [hsp]; bv_omega
  refine ⟨u, hexec, ?_, hu.trans hhigh⟩
  rw [hlow, hhigh] at hpc
  have hheld : Holds _ (t.busRead (stackAddr (sp - 1))) := h.of_kept (t.access_kept _)
  rw [hpc, hheld.peek (.head _), h.peek (.tail _ (.head _)), w16_hi_lo]

/-- RTI restores the flags and the return address that the stack holds (spec/44_control_flow.md R284). -/
theorem exec_rti_of_holds {t : State} {sp : Byte} {w : Word} {flags : Byte} (h : Holds (exceptionFrame sp w flags) t)
    (hsp : t.sp = sp - 3) : ∃ u, exec .rti t = .next u ∧ u.pc = w ∧ u.sp = sp ∧ u.p = pulledFlags flags := by
  obtain ⟨-, hrti⟩ := returnFromInterrupt
  obtain ⟨u, hexec, hp, hpc, hu, -⟩ := hrti t
  have hflags : t.sp + 1 = sp - 2 := by rw [hsp]; bv_omega
  have hlow : t.sp + 2 = sp - 1 := by rw [hsp]; bv_omega
  have hhigh : t.sp + 3 = sp := by rw [hsp]; bv_omega
  have hpulled : Holds _ t.flagsPulled := h.of_kept (.of_eq rfl rfl rfl)
  have hread : Holds _ (t.flagsPulled.busRead (stackAddr (sp - 1))) := hpulled.of_kept (.of_eq rfl rfl rfl)
  have hpc : u.pc = w16 ((t.flagsPulled.busRead (stackAddr (t.sp + 2))).peek (stackAddr (t.sp + 3)))
    (t.flagsPulled.peek (stackAddr (t.sp + 2))) := hpc
  rw [hflags, h.peek (.tail _ (.tail _ (.head _)))] at hp
  refine ⟨u, hexec, ?_, hu.trans hhigh, hp⟩
  rw [hpc, hlow, hhigh, hread.peek (.head _), hpulled.peek (.tail _ (.head _)), w16_hi_lo]

/-! ### The flag byte that comes back -/

theorem pulledFlags_pushedBySoftware (p : Byte) : pulledFlags (pushedBySoftware p) = pulledFlags p :=
  flags_ext fun f => by cases f <;> simp [getFlag_pulledFlags, getFlag_pushedBySoftware]

theorem pulledFlags_pushedByInterrupt (b : Bool) (p : Byte) : pulledFlags (pushedByInterrupt b p) = pulledFlags p :=
  flags_ext fun f => by cases f <;> simp [getFlag_pulledFlags, getFlag_pushedByInterrupt]

/-! ### Entry and return -/

/-- What an interrupt entry stores (spec/60_exceptions.md R525). -/
theorem State.takePending_stored {s : State} (h : s.entersInterrupt = true) :
    StoredAll (exceptionFrame s.sp s.pc (pushedByInterrupt s.cfg.intPushB s.p)) s s.takePending := by
  have hstored := s.enterException_stored s.pc (pushedByInterrupt s.cfg.intPushB s.p) (interruptVector s.cfg s.pending)
  rw [byte_sub_two] at hstored
  rw [State.takePending, if_pos h]
  exact hstored.congr (.refl s) (.of_eq rfl rfl rfl)

theorem State.takePending_sp {s : State} (h : s.entersInterrupt = true) : s.takePending.sp = s.sp - 3 := by
  rw [State.takePending, if_pos h, State.enterInterrupt, State.setPending_sp, State.charge_sp, State.enterException_sp,
    byte_sub_three]

/-- An exception frame in distinct RAM cells is held by the state after its entry. -/
theorem exceptionFrame_holds {s t : State} {j k l : Nat} {w : Word} {flags : Byte}
    (hj : s.route (stackAddr s.sp) = .ram j) (hk : s.route (stackAddr (s.sp - 1)) = .ram k)
    (hl : s.route (stackAddr (s.sp - 2)) = .ram l) (hjk : j ≠ k) (hjl : j ≠ l) (hkl : k ≠ l)
    (h : StoredAll (exceptionFrame s.sp w flags) s t) : Holds (exceptionFrame s.sp w flags) t :=
  h.holds (.cons hj (.cons hk (.cons hl .nil))) (by simp [hjk, hjl, hkl])

/-- Settles O38: each entry leaves its frame held on the stack, and the return reads it back. -/
theorem returnUndoesEntry : Obligations.ReturnUndoesEntry := by
  intro s w j k l hj hk hl hjk hjl hkl
  refine ⟨?call, ?brk, fun henters => ?interrupt⟩
  case call =>
    obtain ⟨-, -, hjsr, -⟩ := subroutineCallAndReturn
    obtain ⟨t, ht, -, hsp, -, heffect⟩ := hjsr w s
    obtain ⟨u, hu, hpc, husp⟩ :=
      exec_rts_of_holds (heffect.stored.holds (.cons hj (.cons hk .nil)) (by simp [hjk])) hsp
    exact ⟨t, u, ht, hu, hpc.trans (word_add_three s.pc), husp⟩
  case brk =>
    obtain ⟨-, hbrk⟩ := breakInstruction
    obtain ⟨t, ht, hsp, -, -, -, heffect⟩ := hbrk s
    obtain ⟨u, hu, hpc, husp, hp⟩ :=
      exec_rti_of_holds (exceptionFrame_holds hj hk hl hjk hjl hkl heffect.stored) hsp
    exact ⟨t, u, ht, hu, hpc, husp, hp.trans (pulledFlags_pushedBySoftware s.p)⟩
  case interrupt =>
    obtain ⟨u, hu, hpc, husp, hp⟩ := exec_rti_of_holds
      (exceptionFrame_holds hj hk hl hjk hjl hkl (State.takePending_stored henters)) (State.takePending_sp henters)
    exact ⟨u, hu, hpc, husp, hp.trans (pulledFlags_pushedByInterrupt ..)⟩

end Sys2Proof.Machine
end

section
/-! PROOFS. Stack, flag and no-operation instructions (spec/45_stack_flags_misc.md): each is one push, one pop, one flag write or
nothing on the advanced state, which by then shows no access (`State.advance_effect`). -/

namespace Sys2Proof.Machine

/-! ### Writes of registers and flags after an effect -/

section
variable {regs : List Reg} {flags : List Flag} {u s t : State}

/-- A flag byte written after an effect that wrote no flag. -/
theorem RegisterEffect.setP (h : RegisterEffect regs [] u s t) {p : Byte} (hp : FlagsKept flags t (t.setP p)) :
    RegisterEffect regs flags u s (t.setP p) where
  regs := h.regs
  flags f hf := (hp f hf).trans (h.flags f List.not_mem_nil)
  control := ⟨h.control.halted, h.control.cfg, h.control.returned⟩
  storage := h.storage.trans (.of_eq rfl rfl rfl)
  outside := ⟨h.outside.events, h.outside.pending, h.outside.stall, h.outside.replies⟩

/-- A written after an effect that already wrote other registers. -/
theorem RegisterEffect.setA (h : RegisterEffect regs flags u s t) (v : Byte) :
    RegisterEffect (.a :: regs) flags u s (t.setA v) where
  regs := RegsKept.setA (fun r hr => h.regs r (List.not_mem_of_not_mem_cons hr)) List.mem_cons_self v
  flags := h.flags
  control := ⟨h.control.halted, h.control.cfg, h.control.returned⟩
  storage := h.storage.trans ((BusAlike.refl t).setA v).kept
  outside := ⟨h.outside.events, h.outside.pending, h.outside.stall, h.outside.replies⟩

end

theorem State.setFlag_kept (s : State) (f : Flag) (v : Bool) : FlagsKept [f] s (s.setFlag f v) := fun g hg => by
  rw [State.setFlag_flag, if_neg (List.ne_of_not_mem_cons hg)]

/-- Nothing is said of the flags when all eight may be written. -/
theorem FlagsKept.of_all (s t : State) : FlagsKept [.c, .z, .i, .d, .b, .u, .v, .n] s t := fun f hf =>
  absurd (by cases f <;> decide) hf

/-! ### NOP (spec/45_stack_flags_misc.md R311, spec/46_undocumented.md R350 to R352) -/

/-- An instruction that only advances, and whose resolver follows no pointer. -/
theorem exec_advance {i : Instr} {s : State} (hi : pointerReads i.operand s = []) (h : exec i s = .next (s.advance i)) :
    ∃ t, exec i s = .next t ∧ Advanced i s t ∧ RegisterEffect [] [] s s t :=
  ⟨_, h, s.advance_advanced i, s.advance_effect i hi⟩

/-- Settles O41: the rows of the opcode map, then each form: no mode of a NOP follows a pointer, and none reads its operand. -/
theorem noOperations : Obligations.NoOperations := by
  refine ⟨.of_map rfl, fun _ _ => ⟨rfl, rfl, rfl, rfl, rfl, rfl⟩, fun s r3 r5 r6 b w q hq => ?_⟩
  fin_cases hq <;> exact ⟨rfl, exec_advance rfl rfl⟩

/-! ### CLC, SEC, CLI, SEI, CLV, CLD and SED (R304 to R310) -/

/-- An instruction that writes one flag on the advanced state. -/
theorem exec_setFlag {i : Instr} {s : State} {f : Flag} {v : Bool} (hi : pointerReads i.operand s = [])
    (h : exec i s = .next ((s.advance i).setFlag f v)) :
    ∃ t, exec i s = .next t ∧ t.flag f = v ∧ Advanced i s t ∧ RegisterEffect [] [f] s s t :=
  ⟨_, h, (State.setFlag_flag ..).trans (if_pos rfl), (s.advance_advanced i).of_eq rfl rfl,
    (s.advance_effect i hi).setP (State.setFlag_kept _ f v)⟩

/-- Settles O40: the rows, the places of the flags in P, then each instruction as its one flag write. -/
theorem flagInstructions : Obligations.FlagInstructions := by
  refine ⟨.of_map rfl, .of_map rfl, .of_map rfl, .of_map rfl, .of_map rfl, .of_map rfl, .of_map rfl, fun _ => rfl,
    fun s q hq => ?_⟩
  fin_cases hq <;> exact exec_setFlag rfl rfl

/-! ### PHA and PHP (R300, R302) -/

/-- An instruction that pushes the byte v on the advanced state. -/
theorem exec_push {i : Instr} {s : State} {v : Byte} (hi : pointerReads i.operand s = [])
    (h : exec i s = .next ((s.advance i).push v)) :
    ∃ t, exec i s = .next t ∧ t.sp = s.sp - 1 ∧ Advanced i s t ∧
      StoreEffect [.sp] [] [(stackAddr s.sp, v)] (s.busWrite (stackAddr s.sp) v) s t := by
  have hpush := (s.advance i).push_alike v
  have hstored := (s.advance i).push_stored v
  rw [State.advance_sp] at hpush hstored
  exact ⟨_, h, by simp, (s.advance_advanced i).of_eq (State.push_pc ..) (State.push_cycles ..),
    .of_alike (((State.advance_alike_self i hi).busWrite _ v).trans hpush)
      (.one (hstored.congr (s.advance_kept i).symm (.refl _))) (.of_axy (by simp) (by simp) (by simp)) (fun f _ => by simp)
      (by simp) (by simp) (by simp)⟩

theorem exec_pha (s : State) : exec .pha s = .next ((s.advance .pha).push s.a) := by
  rw [← s.advance_a .pha]
  rfl

theorem exec_php (s : State) : exec .php s = .next ((s.advance .php).push (s.p ||| 0x30)) := by
  rw [← s.advance_p .php]
  rfl

/-! ### PLA and PLP (R301, R303) -/

section
variable {i : Instr} {s : State} (hi : pointerReads i.operand s = [])
include hi

theorem State.advance_popped : (s.advance i).popped = s.peek (stackAddr (s.sp + 1)) := by
  rw [State.popped_eq, State.advance_sp, (State.advance_alike_self i hi).peek]

/-- A pop on the advanced state reads the slot above S and writes S. -/
theorem State.advance_pop_effect :
    RegisterEffect [.sp] [] (s.busRead (stackAddr (s.sp + 1))) s (s.advance i).pop := by
  have hpop := (s.advance i).pop_alike
  rw [State.advance_sp] at hpop
  exact .of_alike (((State.advance_alike_self i hi).busRead _).trans hpop) (.of_eq (by simp) (by simp) (by simp))
    (.of_axy (by simp) (by simp) (by simp)) (fun f _ => by simp) (by simp) (by simp)

end

theorem State.advance_pop_advanced (s : State) (i : Instr) : Advanced i s (s.advance i).pop :=
  (s.advance_advanced i).of_eq (State.pop_pc _) (State.pop_cycles _)

theorem exec_pla (s : State) : exec .pla s =
    .next (((s.advance .pla).pop.setA (s.peek (stackAddr (s.sp + 1)))).setNZ (s.peek (stackAddr (s.sp + 1)))) := by
  rw [← State.advance_popped (i := .pla) rfl]
  rfl

theorem exec_plp (s : State) :
    exec .plp s = .next ((s.advance .plp).pop.setP (pulledFlags (s.peek (stackAddr (s.sp + 1))))) := by
  rw [← State.advance_popped (i := .plp) rfl]
  rfl

/-- Settles O39: the rows, the words in numbers, then the two pushes and the two pops. -/
theorem stackInstructions : Obligations.StackInstructions := by
  refine ⟨.of_map rfl, .of_map rfl, .of_map rfl, .of_map rfl, stackAddr_toNat, fun w => ⟨hi_toNat w, lo_toNat w⟩, w16_toNat,
    fun s => ⟨exec_push rfl (exec_pha s), exec_push rfl (exec_php s), ?pla, ?plp⟩⟩
  case pla =>
    exact ⟨_, exec_pla s, rfl, by simp, State.setNZ_nzOf .., (s.advance_pop_advanced .pla).of_eq rfl rfl,
      ((State.advance_pop_effect rfl).setA _).setNZ _⟩
  case plp =>
    exact ⟨_, exec_plp s, rfl, by simp, (s.advance_pop_advanced .plp).of_eq rfl rfl,
      (State.advance_pop_effect rfl).setP (.of_all _ _)⟩

end Sys2Proof.Machine
end

section
/-! PROOFS. The combinations with an immediate operand (spec/46_undocumented.md R339 to R342): one read of the operand byte, one
register, and P. -/

namespace Sys2Proof.Machine

/-! ### ANC and ALR (R339, R340) -/

/-- Writing C after N and Z is writing C, N and Z. -/
theorem putFlag_c_putNZ (p v : Byte) (c : Bool) : putFlag (putNZ p v) .c c = putCNZ p { r := v, c := c } :=
  flags_ext fun f => by
    rw [getFlag_putFlag, getFlag_putNZ, getFlag_putCNZ]
    cases f <;> rfl

theorem exec_anc (row : Fin 2) (b : Byte) (s : State) :
    let out : ShiftOut := { r := s.a &&& b, c := bit7 (s.a &&& b) }
    exec (.anc row b) s = .next (((s.operandRead (.anc row b)).setA out.r).setP (putCNZ s.p out)) :=
  congrArg (fun q => Host.Outcome.next (((s.operandRead (.anc row b)).setA (s.a &&& b)).setP q)) (putFlag_c_putNZ s.p ..)

theorem exec_alr (b : Byte) (s : State) :
    let out := aluLsr (s.a &&& b)
    exec (.alr b) s = .next (((s.operandRead (.alr b)).setA out.r).setP (putCNZ s.p out)) := rfl

/-- An instruction that reads its operand and writes a byte to A with its own carry. -/
theorem exec_setA_putCNZ {i : Instr} {s : State} {out : ShiftOut}
    (h : exec i s = .next (((s.operandRead i).setA out.r).setP (putCNZ s.p out))) :
    ∃ t, exec i s = .next t ∧ t.a = out.r ∧ NZOf out.r t ∧ t.flag .c = out.c ∧ Advanced i s t ∧
      RegisterEffect [.a] [.n, .z, .c] (s.afterRead i.operand) s t :=
  ⟨_, h, rfl, ⟨by simp [getFlag_putCNZ], by simp [getFlag_putCNZ, bit7]⟩, by simp [getFlag_putCNZ],
    (s.operandRead_advanced i).of_eq rfl rfl, .of_setA_setP (s.setP_putCNZ_kept out) (by decide)⟩

/-! ### ARR (R341) -/

/-- Writing C and V after N and Z is writing all four. -/
theorem putFlag_v_putFlag_c_putNZ (p r : Byte) (c v : Bool) :
    putFlag (putFlag (putNZ p r) .c c) .v v = putArith p { r := r, c := c, v := v } :=
  flags_ext fun f => by
    rw [getFlag_putFlag, getFlag_putFlag, getFlag_putNZ, getFlag_putArith]
    cases f <;> rfl

/-- What ARR writes: its result, with bit 6 as C and its own V (R341). -/
def arrOut (a m : Byte) (c : Bool) : AluOut :=
  { r := arrResult a m c
    c := bit6 (arrResult a m c)
    v := bit6 (arrResult a m c) ^^ (arrResult a m c).getLsbD 5 }

theorem exec_arr (b : Byte) (s : State) :
    exec (.arr b) s = .next ((s.operandRead (.arr b)).withSum (arrOut s.a b (s.flag .c))) :=
  congrArg (fun q => Host.Outcome.next (((s.operandRead (.arr b)).setA (arrResult s.a b (s.flag .c))).setP q))
    (putFlag_v_putFlag_c_putNZ s.p ..)

/-! ### AXS (R342) -/

theorem exec_axs (b : Byte) (s : State) : exec (.axs b) s =
    .next (((s.operandRead (.axs b)).setRegs [.x] ((s.a &&& s.x) - b)).setP (putCmp s.p (aluCmp (s.a &&& s.x) b))) := rfl

/-- Settles O44: ANC and ALR write A with a carry, ARR writes A, C and V, AXS writes X and the flags of a compare. -/
theorem immediateCombinations : Obligations.ImmediateCombinations := by
  refine ⟨fun _ _ => ⟨rfl, rfl⟩, .of_map rfl, .of_map rfl, .of_map rfl, fun b s => ⟨fun row => ?anc, ?alr, ?arr, ?axs⟩⟩
  case anc =>
    obtain ⟨t, hexec, ha, hnz, hc, hadvanced, heffect⟩ := exec_setA_putCNZ (exec_anc row b s)
    exact ⟨t, hexec, ha, hnz, hc, ⟨hadvanced.pc, hadvanced.cycles⟩, heffect⟩
  case alr =>
    obtain ⟨t, hexec, ha, hnz, hc, hadvanced, heffect⟩ := exec_setA_putCNZ (exec_alr b s)
    have hbit7 : ((s.a &&& b) >>> 1).getLsbD 7 = false := by simp
    exact ⟨t, hexec, ha, hnz, hnz.2.trans hbit7, hc, ⟨hadvanced.pc, hadvanced.cycles⟩, heffect⟩
  case arr =>
    obtain ⟨hadvanced, heffect⟩ := s.withSum_effect (.arr b) (arrOut s.a b (s.flag .c))
    rw [← carryByte_shiftLeft_seven]
    exact ⟨_, exec_arr b s, rfl, State.withSum_nzOf .., State.withSum_flag .., State.withSum_flag ..,
      ⟨hadvanced.pc, hadvanced.cycles⟩, heffect⟩
  case axs =>
    refine ⟨_, exec_axs b s, rfl, ?carry, ?zero, ?negative, ⟨rfl, rfl⟩,
      ((s.operandRead_effect (.axs b)).setRegs [.x] _).setP (State.setP_putCmp_kept _ _)⟩
    all_goals rw [State.setP_flag, getFlag_putCmp]
    case carry => exact decide_eq_true_iff
    case zero => exact aluCmp_z_iff ..
    case negative => rfl

end Sys2Proof.Machine
end

section
/-! PROOFS. The read-modify-write compositions (spec/46_undocumented.md R331 to R336): the first instruction leaves its result at
the effective address (`Replaced`), and the second runs on the state in which that address has been read again
(`exec_composed`). -/

namespace Sys2Proof.Machine

/-! ### The modes of the compositions -/

/-- In a memory mode the operand read is a read of the effective address (spec/00_scope.md R15). -/
theorem afterOperand_eq_busRead {o : Operand} (himm : o.mode ≠ .imm) (hacc : o.mode ≠ .acc) (r : Resolved) (s : State) :
    afterOperand o r s = s.busRead r.ea := by
  cases o with
  | imm b => exact absurd rfl himm
  | acc => exact absurd rfl hacc
  | _ => rfl

/-- No composition has an immediate operand or the accumulator (spec/30_encoding.md R107). -/
theorem mode_ne_of_composed {o : Operand} (ho : o.mode ∈ composedModes) : o.mode ≠ .imm ∧ o.mode ≠ .acc :=
  ⟨ne_of_mem_of_not_mem ho (by decide), ne_of_mem_of_not_mem ho (by decide)⟩

section
variable {o : Operand} (ho : o.mode ∈ composedModes)
include ho

/-- The operand of a composition is read at the effective address. -/
theorem withOperand_composed (r : Resolved) (k : Byte → State → State) (s : State) :
    withOperand o r k s = k (s.peek r.ea) (s.busRead r.ea) := by
  obtain ⟨himm, hacc⟩ := mode_ne_of_composed ho
  unfold withOperand
  rw [operandValue_eq_peek himm hacc, afterOperand_eq_busRead himm hacc]

theorem State.operandByte_composed (s : State) : s.operandByte o = (s.afterPointer o).peek (resolve o s).ea :=
  operandValue_eq_peek (mode_ne_of_composed ho).1 (mode_ne_of_composed ho).2 ..

theorem State.afterRead_composed (s : State) : s.afterRead o = (s.afterPointer o).busRead (resolve o s).ea :=
  afterOperand_eq_busRead (mode_ne_of_composed ho).1 (mode_ne_of_composed ho).2 ..

end

/-! ### The first instruction -/

/-- The operand has been read and the byte v stored in its place, and nothing else: what a read-modify-write instruction does on
the bus. -/
def State.replaced (s : State) (o : Operand) (v : Byte) : State := (s.afterRead o).busWrite (resolve o s).ea v

/-- From s to w the instruction i has advanced and replaced its operand by the byte v; C is now c, and N and Z may have been
written. -/
structure Replaced (i : Instr) (v : Byte) (c : Bool) (s w : State) : Prop where
  advanced : Advanced i s w
  carry    : w.flag .c = c
  alike    : BusAlike (s.replaced i.operand v) w
  effect   : StoreEffect [] [.n, .z, .c] [((resolve i.operand s).ea, v)] (s.replaced i.operand v) s w

/-- C written, the operand replaced by v, N and Z from v. -/
theorem Replaced.of_setFlag_c (i : Instr) (v : Byte) (c : Bool) (s : State) :
    Replaced i v c s ((((s.operandRead i).setFlag .c c).busWrite (resolve i.operand s).ea v).setNZ v) := by
  have halike : BusAlike (s.operandRead i) ((s.operandRead i).setFlag .c c) := (BusAlike.refl _).setFlag .c c (by decide)
  have hflags : FlagsKept [.n, .z, .c] s ((s.operandRead i).setFlag .c c) := fun f hf => by
    have hne : f ≠ .c := (ne_of_mem_of_not_mem (by decide) hf).symm
    rw [State.setFlag_flag, if_neg hne, State.operandRead_flag]
  exact ⟨(s.operandRead_advanced i).of_eq rfl rfl, by simp,
    (((s.operandRead_alike i).trans halike).busWrite _ v).trans ((BusAlike.refl _).setNZ v),
    .of_busWrite_setNZ halike (fun r _ => by simp) hflags (by decide) (by decide) (by simp) (by simp) _ v⟩

/-- The shifts and rotates, outside accumulator mode (spec/43_arith_logic_shift.md R245 to R248). -/
theorem shiftM_replaced {i : Instr} (hi : i.operand.mode ∈ composedModes) (f : Byte → Bool → ShiftOut) (s : State) :
    let out := f (s.operandByte i.operand) (s.flag .c)
    Replaced i out.r out.c s (shiftM f i.operand (resolve i.operand s) (s.advance i)) := by
  intro out
  have hacc : i.operand ≠ .acc := fun h => (mode_ne_of_composed hi).2 (congrArg Operand.mode h)
  have hstate := Host.Outcome.next.inj (perform_shiftM f i s)
  rw [writeBack_of_ne_acc hacc] at hstate
  rw [hstate]
  exact .of_setFlag_c i out.r out.c s

theorem putFlag_getFlag (p : Byte) (f : Flag) : putFlag p f (getFlag p f) = p :=
  flags_ext fun g => by
    rw [getFlag_putFlag]
    exact ite_eq_right_iff.mpr fun hgf => congrArg (getFlag p) hgf.symm

/-- A flag written with its own value. -/
theorem State.setFlag_self (s : State) (f : Flag) : s.setFlag f (s.flag f) = s :=
  congrArg s.setP (putFlag_getFlag s.p f)

/-- INC and DEC leave C (spec/43_arith_logic_shift.md R239, R240). -/
theorem Replaced.of_busWrite_setNZ (i : Instr) (v : Byte) (s : State) :
    Replaced i v (s.flag .c) s (((s.operandRead i).busWrite (resolve i.operand s).ea v).setNZ v) := by
  have hsame : (s.operandRead i).setFlag .c (s.flag .c) = s.operandRead i := by
    rw [← s.operandRead_flag i, State.setFlag_self]
  exact hsame ▸ .of_setFlag_c i v (s.flag .c) s

theorem incM_replaced (i : Instr) (s : State) :
    Replaced i (aluInc (s.operandByte i.operand)) (s.flag .c) s (incM i.operand (resolve i.operand s) (s.advance i)) := by
  unfold incM
  rw [withOperand_advance]
  exact .of_busWrite_setNZ i _ s

theorem decM_replaced (i : Instr) (s : State) :
    Replaced i (aluDec (s.operandByte i.operand)) (s.flag .c) s (decM i.operand (resolve i.operand s) (s.advance i)) := by
  unfold decM
  rw [withOperand_advance]
  exact .of_busWrite_setNZ i _ s

/-! ### The second instruction -/

/-- A composition (spec/40_step_and_addressing.md R159): the second instruction, k, runs with what the effective address then
reads, on a state w that the first has left with that read made. -/
theorem exec_composed {i : Instr} (hi : i.operand.mode ∈ composedModes) {s : State} {v : Byte} {c : Bool}
    {f : Operand → Resolved → State → State} {k : Byte → State → State}
    (h : exec i s = perform i (andThen f (fun o r => withOperand o r k) i.operand) s)
    (hf : Replaced i v c s (f i.operand (resolve i.operand s) (s.advance i))) :
    let ea := (resolve i.operand s).ea
    let u := s.replaced i.operand v
    ∃ w, exec i s = .next (k (u.peek ea) w) ∧ w.a = s.a ∧ w.flag .c = c ∧ Advanced i s w ∧
      StoreEffect [] [.n, .z, .c] [(ea, v)] (u.busRead ea) s w := by
  intro ea u
  have hexec := h.trans (congrArg Host.Outcome.next (withOperand_composed hi _ k _))
  rw [hf.alike.peek] at hexec
  obtain ⟨hregs, hflags, hcontrol, hstored, -⟩ := hf.effect
  exact ⟨_, hexec, hregs .a List.not_mem_nil, hf.carry, hf.advanced.of_eq rfl rfl,
    .of_alike (hf.alike.busRead ea) (hstored.congr (.refl s) (State.access_kept ..))
      (fun r hr => (State.busRead_reg ..).trans (hregs r hr)) hflags hcontrol.halted hcontrol.cfg hcontrol.returned⟩

section
variable {regs : List Reg} {flags : List Flag} {stores : List (Word × Byte)} {u s t : State}

/-- A written after an effect that stored bytes. -/
theorem StoreEffect.setA (h : StoreEffect regs flags stores u s t) (v : Byte) :
    StoreEffect (.a :: regs) flags stores u s (t.setA v) where
  regs := RegsKept.setA (fun r hr => h.regs r (List.not_mem_of_not_mem_cons hr)) List.mem_cons_self v
  flags := h.flags
  control := ⟨h.control.halted, h.control.cfg, h.control.returned⟩
  stored := h.stored.congr (.refl s) ((BusAlike.refl t).setA v).kept
  outside := ⟨h.outside.events, h.outside.pending, h.outside.stall, h.outside.replies⟩

/-- A flag byte written after an effect that stored bytes. -/
theorem StoreEffect.setP (h : StoreEffect regs flags stores u s t) {p : Byte} {written : List Flag}
    (hp : FlagsKept written t (t.setP p)) (hsub : flags ⊆ written) : StoreEffect regs written stores u s (t.setP p) where
  regs := h.regs
  flags f hf := (hp f hf).trans (h.flags f fun hmem => hf (hsub hmem))
  control := ⟨h.control.halted, h.control.cfg, h.control.returned⟩
  stored := h.stored.congr (.refl s) (.of_eq rfl rfl rfl)
  outside := ⟨h.outside.events, h.outside.pending, h.outside.stall, h.outside.replies⟩

end

/-! ### SLO, RLA and SRE (R331 to R333) -/

/-- A shift of memory, then a logical operation of A with what memory then reads. -/
theorem exec_shift_logic {i : Instr} (hi : i.operand.mode ∈ composedModes) {s : State} (f : Byte → Bool → ShiftOut)
    (op : Byte → Byte → Byte)
    (h : exec i s = perform i (andThen (shiftM f) (fun o r => withOperand o r fun m s =>
      (s.setA (op s.a m)).setNZ (op s.a m)) i.operand) s) :
    let out := f (s.operandByte i.operand) (s.flag .c)
    let ea := (resolve i.operand s).ea
    ∃ v n t, v = out.r ∧ n = (s.replaced i.operand v).peek ea ∧ exec i s = .next t ∧ t.a = op s.a n ∧ NZOf t.a t ∧
      t.flag .c = out.c ∧ Advanced i s t ∧
      StoreEffect [.a] [.n, .z, .c] [(ea, v)] ((s.replaced i.operand v).busRead ea) s t := by
  intro out ea
  obtain ⟨w, hexec, ha, hc, hadvanced, heffect⟩ := exec_composed hi h (shiftM_replaced hi f s)
  rw [ha] at hexec
  exact ⟨_, _, _, rfl, rfl, hexec, rfl, State.setNZ_nzOf .., hc ▸ State.setNZ_flag .., hadvanced.of_eq rfl rfl,
    (heffect.setA _).setP (FlagsKept.setNZ (fun _ _ => rfl) (by decide) (by decide) _) (List.Subset.refl _)⟩

/-- Settles O42: three shifts, each followed by its logical operation. -/
theorem shiftThenLogicCompositions : Obligations.ShiftThenLogicCompositions := by
  refine ⟨.of_map rfl, .of_map rfl, .of_map rfl, fun o s hwf => ?_⟩
  have ho : o.mode ∈ composedModes := List.contains_iff_mem.mp hwf
  dsimp only
  rw [← State.operandByte_composed ho, ← State.afterRead_composed ho]
  exact ⟨exec_shift_logic (i := .slo o) ho (fun v _ => aluAsl v) aluOr rfl,
    exec_shift_logic (i := .rla o) ho aluRol aluAnd rfl,
    exec_shift_logic (i := .sre o) ho (fun v _ => aluLsr v) aluXor rfl⟩

/-! ### RRA, DCP and ISC (R334 to R336) -/

/-- A replacement of memory, then a sum of A with what memory then reads and the carry that the first instruction left. -/
theorem exec_replaced_sum {i : Instr} (hi : i.operand.mode ∈ composedModes) {s : State} {v : Byte} {c : Bool}
    {f : Operand → Resolved → State → State} (alu : Byte → Byte → Bool → AluOut)
    (h : exec i s = perform i (andThen f (fun o r => withOperand o r fun m s =>
      s.withSum (alu s.a m (s.flag .c))) i.operand) s)
    (hf : Replaced i v c s (f i.operand (resolve i.operand s) (s.advance i))) :
    let ea := (resolve i.operand s).ea
    let u := s.replaced i.operand v
    let out := alu s.a (u.peek ea) c
    ∃ t, exec i s = .next t ∧ t.a = out.r ∧ t.flag .c = out.c ∧ t.flag .v = out.v ∧ NZOf t.a t ∧ Advanced i s t ∧
      StoreEffect [.a] [.n, .v, .z, .c] [(ea, v)] (u.busRead ea) s t := by
  intro ea u out
  obtain ⟨w, hexec, ha, hc, hadvanced, heffect⟩ := exec_composed hi h hf
  rw [ha, hc] at hexec
  exact ⟨_, hexec, rfl, State.withSum_flag .., State.withSum_flag .., State.withSum_nzOf .., hadvanced.of_eq rfl rfl,
    (heffect.setA _).setP (State.setP_putArith_kept _ _) (by decide)⟩

/-- Settles O43: ROR then a sum with the bit rotated out, DEC then a compare, INC then a difference with the old carry. -/
theorem arithmeticCompositions : Obligations.ArithmeticCompositions := by
  refine ⟨.of_map rfl, .of_map rfl, .of_map rfl, fun o s hwf => ?_⟩
  have ho : o.mode ∈ composedModes := List.contains_iff_mem.mp hwf
  dsimp only
  rw [← State.operandByte_composed ho, ← State.afterRead_composed ho, ← carryByte_shiftLeft_seven]
  refine ⟨?rra, ?dcp, ?isc⟩
  case rra =>
    obtain ⟨t, hexec, ha, hc, hv, heffect⟩ := exec_replaced_sum (i := .rra o) ho aluAdd rfl 
      (shiftM_replaced (i := .rra o) ho aluRor s)
    exact ⟨_, t, rfl, hexec, ha ▸ aluAdd_r_toNat .., hc ▸ aluAdd_c_iff .., hv ▸ aluAdd_v_iff_signed .., heffect⟩
  case dcp =>
    obtain ⟨w, hexec, ha, -, hadvanced, heffect⟩ := exec_composed (i := .dcp o) ho rfl (decM_replaced (.dcp o) s)
    rw [ha] at hexec
    refine ⟨_, hexec, ?carry, ?zero, ?negative, hadvanced.of_eq rfl rfl,
      heffect.setP (State.setP_putCmp_kept _ _) (List.Subset.refl _)⟩
    all_goals rw [State.setP_flag, getFlag_putCmp]
    case carry => exact decide_eq_true_iff
    case zero => exact aluCmp_z_iff ..
    case negative => rfl
  case isc =>
    obtain ⟨t, hexec, ha, hc, hv, heffect⟩ := exec_replaced_sum (i := .isc o) ho aluSub rfl (incM_replaced (.isc o) s)
    exact ⟨t, hexec, ha ▸ aluSub_r_toNat .., hc ▸ aluSub_c_iff .., hv ▸ aluSub_v_iff_signed .., heffect⟩

end Sys2Proof.Machine
end

section
/-! PROOFS. Every transaction of the host keeps the invariant of the machine: those that leave the cartridge alone store nothing,
`reset()` sets P to `RESET_P`, a cartridge operation keeps the cartridge's own invariant, and a load builds a cartridge that
meets it. -/

namespace Sys2Proof.Machine

/-! ### The cartridge operations of the host that are not the mapper's (spec/50_cartridge.md R391, R392) -/

theorem Cartridge.restoreSaveRam_inv {cfg : Config} {c : Cartridge} (h : c.Inv cfg) (bytes : List Byte) :
    (c.restoreSaveRam bytes).Inv cfg := by
  unfold Cartridge.restoreSaveRam
  split
  · next hlen =>
    have hwithin : (Memory.ofBytes bytes 0).within 8192 = true :=
      Bool.and_eq_true_iff.mpr ⟨Memory.ofBytes_wf bytes 0, Memory.ofBytes_fits bytes 8192 hlen.le⟩
    exact { h with saveRam_within := hwithin, board := h.board }
  · exact h

theorem Cartridge.clearDirty_inv {cfg : Config} {c : Cartridge} (h : c.Inv cfg) : { c with dirty := false }.Inv cfg :=
  { h with board := h.board }

/-! ### The machine with its cartridge changed -/

section
variable {s : State} (h : s.Inv)
include h

theorem State.Inv.setCart {c : Cartridge} (hc : c.Inv s.cfg) : (s.setCart (some c)).Inv :=
  { h with cart := by rintro _ ⟨⟩; exact hc }

theorem State.Inv.receiveAll (es : List BusEvent) : (s.receiveAll es).Inv :=
  h.of_kept (.of_eq rfl rfl rfl) h.always_set h.break_clear

theorem State.Inv.withCart {f : Cartridge → Cartridge × List BusEvent} (hf : ∀ c, c.Inv s.cfg → (f c).1.Inv s.cfg) :
    (s.withCart f).Inv := by
  unfold State.withCart
  split
  · next c hc => exact (h.setCart (hf c (h.cart c hc))).receiveAll _
  · exact h

theorem State.Inv.load (image : List Byte) : (s.load image).Inv := by
  unfold State.load
  split
  · next c hc => exact h.setCart (loadImage_inv s.cfg image c hc)
  · exact h

/-- `RESET_P` has bit 5 set and bit 4 clear (spec/70_reset_and_hazards.md R563). -/
theorem State.Inv.resetCpu : s.resetCpu.Inv :=
  h.of_kept (.of_eq rfl rfl rfl) h.reset_u h.reset_b

end

/-- Settles O6: each transaction by what it can change. -/
theorem hostCallsKeepInvariant : Obligations.HostCallsKeepInvariant := by
  intro s call hs
  have h : s.begin.Inv := ((Keeps.refl s).setEvents []).inv hs
  cases call with
  | reset => exact h.resetCpu
  | signalNmi | signalIrq | cancelIrq => exact ((Keeps.refl _).setPending _).inv h
  | addStall n => exact ((Keeps.refl _).setStall _).inv h
  | devices rs => exact h.of_kept (.of_eq rfl rfl rfl) h.always_set h.break_clear
  | stepVideo sl cy bg sp => exact h.withCart fun c hc => Cartridge.stepVideo_inv s.cfg c sl cy bg sp hc
  | tickCpu n => exact h.withCart fun c hc => Cartridge.tickCpu_inv s.cfg c n hc
  | mapperWrite a v => exact h.withCart fun c hc => Cartridge.write_inv s.cfg c a v hc
  | load image => exact h.load image
  | restoreSaveRam bytes => exact h.withCart fun _ hc => Cartridge.restoreSaveRam_inv hc bytes
  | clearDirty => exact h.withCart fun _ hc => Cartridge.clearDirty_inv hc

end Sys2Proof.Machine
end

section
/-! PROOFS. The ROM image loader (spec/50_cartridge.md): one equation of `loadImage` for each of its ends, over the header that
bytes 4 to 7 make (`headerOf`); the board of each mapper id; the body of an image as one run of bytes, with its checksum and its
parts. -/

namespace Sys2Proof.Machine

/-! ### The header (R381 to R383) -/

/-- The header fields of an image's bytes 4 to 7, whatever its signature. -/
def headerOf (image : List Byte) : Header where
  prgCount   := (image.getD 4 0).toNat
  chrCount   := (image.getD 5 0).toNat
  mirrorBit  := (image.getD 6 0).getLsbD 0
  battery    := (image.getD 6 0).getLsbD 1
  trainer    := (image.getD 6 0).getLsbD 2
  fourScreen := (image.getD 6 0).getLsbD 3
  mapperLo   := (image.getD 6 0).extractLsb' 4 4
  mapperHi   := (image.getD 7 0).extractLsb' 4 4

theorem parseHeader_eq_some {image : List Byte} (h : 16 ≤ image.length ∧ image.take 4 = headerSignature) :
    parseHeader image = some (headerOf image) := if_pos h

theorem parseHeader_eq_none {image : List Byte} (h : ¬ (16 ≤ image.length ∧ image.take 4 = headerSignature)) :
    parseHeader image = none := if_neg h

theorem headerOf_prgCount_eq_zero {image : List Byte} : (headerOf image).prgCount = 0 ↔ image.getD 4 0 = 0 :=
  BitVec.toNat_inj (y := 0)

theorem headerOf_chrCount_eq_zero {image : List Byte} : (headerOf image).chrCount = 0 ↔ image.getD 5 0 = 0 :=
  BitVec.toNat_inj (y := 0)

/-- The mapper id has the high nybble of byte 7 over that of byte 6 (R383). -/
theorem headerOf_mapperId_toNat (image : List Byte) :
    (headerOf image).mapperId.toNat = (image.getD 7 0).toNat / 16 * 16 + (image.getD 6 0).toNat / 16 := by
  have h6 := (image.getD 6 0).isLt
  have h7 := (image.getD 7 0).isLt
  unfold Header.mapperId headerOf
  rw [BitVec.toNat_append, ← Nat.shiftLeft_add_eq_or_of_lt (BitVec.isLt _), Nat.shiftLeft_eq]
  simp only [BitVec.extractLsb'_toNat, Nat.shiftRight_eq_div_pow]
  omega

/-! ### The body (R384, R394) -/

/-- The length of the body: trainer, program and character bytes. -/
def Header.bodyLength (h : Header) : Nat := h.trainerLength + h.prgLength + h.chrLength

/-- Without character banks the image holds no character bytes. -/
theorem Header.chrBytes_eq_nil {h : Header} {image : List Byte} (hchr : h.chrCount = 0) : h.chrBytes image = [] := by
  unfold Header.chrBytes Header.chrLength
  rw [hchr]
  rfl

theorem Header.complete_iff {h : Header} {image : List Byte} : h.complete image = true ↔ 16 + h.bodyLength ≤ image.length := by
  unfold Header.complete Header.bodyLength
  rw [decide_eq_true_iff, Nat.add_assoc, Nat.add_assoc, ← Nat.add_assoc h.trainerLength]

/-- The three parts of the body are one run of bytes after the header. -/
theorem Header.body_eq (h : Header) (image : List Byte) :
    h.trainerBytes image ++ h.prgBytes image ++ h.chrBytes image = (image.drop 16).take h.bodyLength := by
  unfold Header.trainerBytes Header.prgBytes Header.chrBytes Header.bodyLength
  rw [List.take_add, List.take_add, List.drop_drop, List.drop_drop, Nat.add_assoc 16]

theorem Header.checksum_eq (h : Header) (image : List Byte) :
    h.checksum image = bitwiseCrc32 ((image.drop 16).take h.bodyLength) := by
  rw [← h.body_eq, ← crc32_eq_bitwise, Header.checksum]

/-- A store of `n` image bytes from offset `d` on reads as the image does there. -/
theorem Memory.read_ofBytes_slice (image : List Byte) (d : Nat) {n k : Nat} (hk : k < n) :
    (Memory.ofBytes ((image.drop d).take n) 0).read k = image.getD (d + k) 0 := by
  have h := Memory.read_ofBytes ((image.drop d).take n) 0 k
  rw [Nat.zero_add] at h
  rw [h, List.getD_eq_getElem?_getD, List.getD_eq_getElem?_getD, List.getElem?_take_of_lt hk, List.getElem?_drop]
  rfl

/-! ### The mapper id and its board (R395, R396) -/

/-- The mapper id that an image is loaded with. -/
def Header.loadedId (h : Header) (cfg : Config) (image : List Byte) : Byte :=
  correctedMapperId cfg (h.checksum image) h.mapperId

theorem headerOf_loadedId_toNat (cfg : Config) (image : List Byte) :
    ((headerOf image).loadedId cfg image).toNat =
      match cfg.mapperFixTable.lookup (bitwiseCrc32 ((image.drop 16).take (headerOf image).bodyLength)) with
      | some m => m.toNat
      | none => (image.getD 7 0).toNat / 16 * 16 + (image.getD 6 0).toNat / 16 := by
  unfold Header.loadedId correctedMapperId
  rw [Header.checksum_eq]
  cases cfg.mapperFixTable.lookup _ with
  | some m => rfl
  | none => exact headerOf_mapperId_toNat image

theorem boardFor_eq_none {cfg : Config} {id : Byte}
    (h : id.toNat ∉ [0, 1, 4] ∨ ∀ m ∈ cfg.supportedMappers, m.toNat ≠ id.toNat) : boardFor cfg id = none := by
  unfold boardFor
  split
  · next hmem =>
    have hid : id.toNat ∉ [0, 1, 4] := h.resolve_right fun hm => hm id hmem rfl
    split
    case h_4 => rfl
    all_goals next heq => exact absurd (by simp [heq]) hid
  · rfl

/-- The board of a supported id, with its registers at power-on (R569). -/
theorem boardFor_eq_some {cfg : Config} {id : Byte} (hid : id.toNat ∈ [0, 1, 4])
    (hmem : ∃ m ∈ cfg.supportedMappers, m.toNat = id.toNat) :
    ∃ board, boardFor cfg id = some board ∧ (id.toNat = 0 → board = .nrom) ∧
      (id.toNat = 1 → board = .mmc1 Mmc1.powerOn) ∧ (id.toNat = 4 → board = .mmc3 (Mmc3.powerOn cfg)) := by
  obtain ⟨m, hm, hmid⟩ := hmem
  rw [BitVec.eq_of_toNat_eq hmid] at hm
  unfold boardFor
  rw [if_pos hm]
  simp only [List.mem_cons, List.not_mem_nil, or_false] at hid
  obtain h | h | h := hid <;> rw [h] <;> exact ⟨_, rfl, by simp⟩

/-! ### The ends of a load (R397) -/

section
variable {cfg : Config} {image : List Byte} {h : Header}

theorem loadImage_no_header (hparse : parseHeader image = none) : loadImage cfg image = .error .format := by
  unfold loadImage
  rw [hparse]

theorem loadImage_no_prg (hparse : parseHeader image = some h) (hprg : h.prgCount = 0) :
    loadImage cfg image = .error .format := by
  unfold loadImage
  rw [hparse]
  exact if_pos hprg

theorem loadImage_short (hparse : parseHeader image = some h) (hprg : h.prgCount ≠ 0)
    (hshort : image.length < 16 + h.bodyLength) : loadImage cfg image = .error .truncated := by
  have hcomplete : ¬ h.complete image = true := fun hc => hshort.not_ge (Header.complete_iff.mp hc)
  unfold loadImage
  rw [hparse]
  exact (if_neg hprg).trans (if_neg hcomplete)

/-- An image with its whole body is loaded, if its mapper id has a board. -/
theorem loadImage_whole (hparse : parseHeader image = some h) (hprg : h.prgCount ≠ 0)
    (hbody : 16 + h.bodyLength ≤ image.length) : loadImage cfg image =
      (boardFor cfg (h.loadedId cfg image)).elim (.error .unsupportedMapper) fun board =>
        .ok (buildCartridge h image (h.checksum image) (h.loadedId cfg image) board) := by
  unfold loadImage Header.loadedId
  rw [hparse]
  dsimp only
  rw [if_neg hprg, if_pos (Header.complete_iff.mpr hbody)]
  cases boardFor cfg _ <;> rfl

end

theorem State.load_error {s : State} {image : List Byte} {e : LoadError} (h : loadImage s.cfg image = .error e) :
    s.load image = s := by
  unfold State.load
  rw [h]

theorem State.load_ok {s : State} {image : List Byte} {c : Cartridge} (h : loadImage s.cfg image = .ok c) :
    s.load image = s.setCart (some c) := by
  unfold State.load
  rw [h]

/-! ### The statements -/

/-- Settles O57: each error is one end of `loadImage`, and a load that ends in an error leaves the machine. -/
theorem loadErrors : Obligations.LoadErrors := by
  intro s image hdr body id bad
  have hid : ((headerOf image).loadedId s.cfg image).toNat = id := headerOf_loadedId_toNat s.cfg image
  have hparse (hgood : ¬ bad) : parseHeader image = some (headerOf image) := by
    obtain ⟨hlen, hsig⟩ := not_or.mp hgood
    exact parseHeader_eq_some ⟨not_lt.mp hlen, not_not.mp hsig⟩
  have hcount (h4 : hdr 4 ≠ 0) : (headerOf image).prgCount ≠ 0 := mt headerOf_prgCount_eq_zero.mp h4
  refine ⟨?noHeader, ?noPrg, ?short, ?unsupported, fun e he => State.load_error (s := s.begin) he⟩
  case noHeader =>
    exact fun hbad => loadImage_no_header (parseHeader_eq_none fun ⟨hlen, hsig⟩ => hbad.elim hlen.not_gt (· hsig))
  case noPrg => exact fun hgood h4 => loadImage_no_prg (hparse hgood) (headerOf_prgCount_eq_zero.mpr h4)
  case short => exact fun hgood h4 hlen => loadImage_short (hparse hgood) (hcount h4) hlen
  case unsupported =>
    intro hgood h4 hlen hno
    rw [← hid] at hno
    rw [loadImage_whole (hparse hgood) (hcount h4) hlen, boardFor_eq_none hno]
    rfl

/-- Settles O58: the load ends in `buildCartridge`, whose stores are slices of the image. -/
theorem loadBuildsTheCartridge : Obligations.LoadBuildsTheCartridge := by
  intro s image hdr start prg chr crc id hlen hsig h4 hbody hid hmem
  have hstart : start - 16 + prg + chr = (headerOf image).bodyLength := by
    rw [Nat.add_sub_cancel_left]
    rfl
  have hcrc : (headerOf image).checksum image = crc := by rw [Header.checksum_eq, ← hstart]
  have hloaded : ((headerOf image).loadedId s.cfg image).toNat = id := by
    have h := headerOf_loadedId_toNat s.cfg image
    rwa [← hstart] at h
  rw [← hloaded] at hid hmem ⊢
  obtain ⟨board, hboard, hnrom, hmmc1, hmmc3⟩ := boardFor_eq_some hid hmem
  have hwhole : 16 + (headerOf image).bodyLength ≤ image.length := by omega
  have hload := loadImage_whole (cfg := s.cfg) (parseHeader_eq_some ⟨hlen, hsig⟩) (mt headerOf_prgCount_eq_zero.mp h4) hwhole
  rw [hboard, Option.elim_some] at hload
  refine ⟨_, hload, State.load_ok (s := s.begin) hload, rfl, fun k hk => Memory.read_ofBytes_slice image start hk, ?chrLen,
    ?chrIsRam, ?chr, hcrc, rfl, rfl, rfl, rfl, fun _ => rfl, rfl, rfl, rfl, hnrom, hmmc1, hmmc3, loadImage_inv _ _ _ hload⟩
  case chrLen => exact if_congr headerOf_chrCount_eq_zero rfl rfl
  case chrIsRam => exact decide_eq_decide.mpr headerOf_chrCount_eq_zero
  case chr =>
    intro k hk
    split
    · next h5 =>
      show (Memory.ofBytes ((headerOf image).chrBytes image) 0).read k = 0
      rw [Header.chrBytes_eq_nil (headerOf_chrCount_eq_zero.mpr h5)]
      rfl
    · next h5 =>
      have hlt : k < chr := by rwa [buildCartridge, if_neg (mt headerOf_chrCount_eq_zero.mp h5)] at hk
      exact Memory.read_ofBytes_slice image (start + prg) hlt

end Sys2Proof.Machine
end

section
/-! PROOFS. Address decode and bank translation of the mapper (spec/51_mapper_common.md R411 to R417): the four ranges of
`Cartridge.write` and `Cartridge.read`, and `bankIndex` as a remainder. -/

namespace Sys2Proof.Machine

/-! ### Bank translation -/

section
variable {n : Nat} (hn : 0 < n)
include hn

theorem bankIndex_eq_emod (b : Int) : (bankIndex b n : Int) = b % n :=
  Int.toNat_of_nonneg (Int.emod_nonneg b (by omega))

theorem bankIndex_lt (b : Int) : bankIndex b n < n := by
  have hlt := Int.emod_lt_of_pos b (show (0 : Int) < n by omega)
  rw [← bankIndex_eq_emod hn] at hlt
  omega

/-- Bank -k is the k-th from the end, while there are as many. -/
theorem bankIndex_neg {k : Nat} (hk : 0 < k) (hkn : k ≤ n) : bankIndex (-k) n = n - k := by
  have hmod : (-k : Int) % n = (n - k : Nat) := by
    rw [← Int.add_emod_right, Int.emod_eq_of_lt] <;> omega
  have heq := bankIndex_eq_emod hn (-k)
  omega

end

theorem bankIndex_natCast (b n : Nat) : bankIndex b n = b % n := by
  rw [bankIndex, ← Int.natCast_emod, Int.toNat_natCast]

/-- A whole number of 16 KiB banks is at least one PRG window of every board. -/
theorem Cartridge.prgBanks_pos {c : Cartridge} (hpos : 0 < c.prgLen) (hbanks : c.prgLen % 16384 = 0) :
    0 < c.prgLen / c.board.prgWindow := by
  cases c.board <;> simp only [Board.prgWindow] <;> omega

theorem Cartridge.chrBanks_pos {c : Cartridge} (hpos : 0 < c.chrLen) (hbanks : c.chrLen % 8192 = 0) :
    0 < c.chrLen / c.board.chrWindow := by
  cases c.board <;> simp only [Board.chrWindow] <;> omega

theorem Board.prgWindow_pos (b : Board) : 0 < b.prgWindow := by cases b <;> simp [Board.prgWindow]

/-- Settles O49: the bank index is a remainder, so a window ends inside the array. -/
theorem bankTranslation : Obligations.BankTranslation := by
  refine ⟨fun b n hn => ⟨bankIndex_lt hn b, b / n, ?congruent⟩, fun n hn => bankIndex_neg (k := 1) hn one_pos hn,
    fun n hn => bankIndex_neg (k := 2) (by omega) two_pos hn, fun _ _ _ _ => rfl, fun cfg c a h => ?inside⟩
  case congruent => rw [bankIndex_eq_emod hn, mul_comm, Int.mul_ediv_add_emod]
  case inside =>
    have hprg := Cartridge.prgBanks_pos h.prgLen_pos h.prgLen_banks
    exact ⟨hprg, Cartridge.chrBanks_pos h.chrLen_pos h.chrLen_banks,
      fun _ => windowOffset_lt _ _ _ _ (Nat.mod_lt _ c.board.prgWindow_pos) hprg, fun _ => c.chrOffset_lt cfg a h⟩

/-! ### Address decode (spec/51_mapper_common.md R411 to R415) -/

section
variable (cfg : Config) (c : Cartridge) {a : Word} (v : Byte)

theorem Cartridge.write_chr (h : a.toNat < 0x2000) :
    c.write cfg a v = (if c.chrWritable cfg then { c with chr := c.chr.write (c.chrOffset a.toNat) v } else c, []) := if_pos h

theorem Cartridge.write_openBus (h : 0x2000 ≤ a.toNat) (h' : a.toNat < 0x6000) : c.write cfg a v = (c, []) := by
  rw [Cartridge.write, if_neg (by omega), if_pos h']

theorem Cartridge.write_saveRam (h : 0x6000 ≤ a.toNat) (h' : a.toNat < 0x8000) :
    c.write cfg a v = ({ c with saveRam := c.saveRam.write (a.toNat - 0x6000) v, dirty := true }, []) := by
  rw [Cartridge.write, if_neg (by omega), if_neg (by omega), if_pos h']

theorem Cartridge.write_register (h : 0x8000 ≤ a.toNat) : c.write cfg a v = c.registerWrite cfg a v := by
  rw [Cartridge.write, if_neg (by omega), if_neg (by omega), if_neg (by omega)]

end

theorem Cartridge.read_chr (c : Cartridge) {a : Word} (h : a.toNat < 0x2000) : c.read a = c.chr.read (c.chrOffset a.toNat) :=
  if_pos h

theorem Cartridge.read_openBus (c : Cartridge) {a : Word} (h : 0x2000 ≤ a.toNat) (h' : a.toNat < 0x6000) :
    c.read a = hi a := by
  rw [Cartridge.read, if_neg (by omega), if_pos h']

/-- A register write reaches the board's registers, the mirroring mode and the embedded components only. -/
theorem Cartridge.registerWrite_cases (cfg : Config) (c : Cartridge) (a : Word) (v : Byte) :
    ∃ b m g r, (c.registerWrite cfg a v).1 = { c with board := b, mirroring := m, cycleIrq := g, nybble := r } := by
  have hboard : ∃ b m, (c.boardWrite a v).1 = { c with board := b, mirroring := m } := by
    unfold Cartridge.boardWrite
    split <;> exact ⟨_, _, rfl⟩
  obtain ⟨b, m, hb⟩ := hboard
  exact ⟨b, m, _, _, by rw [Cartridge.registerWrite, hb]; rfl⟩

/-- Settles O48: one range of the address after the other. -/
theorem mapperAddressDecode : Obligations.MapperAddressDecode := by
  refine ⟨rfl, ?_⟩
  intro cfg c a v d writable
  have hwritable : c.chrWritable cfg = writable := rfl
  refine ⟨fun h h' => ⟨?_, c.write_openBus cfg v h h'⟩, fun h h' => ?saveRam, fun h => ?chr, fun h => ?registers,
    (c.write_static cfg a v).1⟩
  · rw [c.read_openBus h h', hi_eq_ofNat]
  case saveRam =>
    have hread : ∀ b, d.read b = if b = a then v else c.read b := fun b => c.read_write_saveRam cfg a b v ⟨h, h'⟩
    refine ⟨c.read_saveRam h h', ?_, ?_, hread, ?_⟩ <;> simp only [d, c.write_saveRam cfg v h h']
  case chr =>
    refine ⟨c.read_chr h, by rw [c.write_chr cfg v h], fun hro => ?_, fun hrw => ?_⟩
    · simp only [d, c.write_chr cfg v h, hwritable, hro]
      rfl
    · have hd : d = { c with chr := c.chr.write (c.chrOffset a.toNat) v } := by
        simp only [d, c.write_chr cfg v h, hwritable, hrw, if_true]
      rw [hd]
      refine ⟨?_, rfl, fun k => Memory.read_write ..⟩
      rw [Cartridge.read_chr _ h]
      exact (Memory.read_write ..).trans (if_pos rfl)
  case registers =>
    obtain ⟨b, m, g, r, hd⟩ := c.registerWrite_cases cfg a v
    rw [← c.write_register cfg v h] at hd
    replace hd : d = _ := hd
    rw [hd]
    exact ⟨c.read_prg h, rfl, rfl, rfl⟩

end Sys2Proof.Machine
end

section
/-! PROOFS. The two clocks of the mapper: the scanline counter (spec/52_mapper_boards.md R487 to R491) and the cycle-based
generator (spec/51_mapper_common.md R426), each a countdown that starts again after its period; and the nybble slots (R428). -/

namespace Sys2Proof.Machine

/-! ### A countdown with a period -/

/-- A count that goes down by one, and from 0 back to one less than the period. -/
def IsCountdown (period : Nat) (f : Nat → Nat) : Prop := ∀ k, f (k + 1) = if f k = 0 then period - 1 else f k - 1

section
variable {period : Nat} {f : Nat → Nat} (h : IsCountdown period f) (hpos : 0 < period) (h0 : f 0 = period - 1)
include h hpos h0

theorem IsCountdown.lt (k : Nat) : f k < period := by
  induction k with
  | zero => omega
  | succ k ih =>
    rw [h k]
    split <;> omega

/-- Count and time add up to a whole number of periods. -/
theorem IsCountdown.dvd_add (k : Nat) : period ∣ f k + (k + 1) := by
  induction k with
  | zero => rw [h0, zero_add, Nat.sub_add_cancel hpos]
  | succ k ih =>
    rw [h k]
    split
    next hz =>
      have hround : period - 1 + (k + 1 + 1) = (f k + (k + 1)) + period := by omega
      rw [hround]
      exact Nat.dvd_add ih (dvd_refl _)
    next hz =>
      have hsame : f k - 1 + (k + 1 + 1) = f k + (k + 1) := by omega
      rwa [hsame]

theorem IsCountdown.eq_zero_iff (k : Nat) : f k = 0 ↔ period ∣ k + 1 := by
  have hsum := h.dvd_add hpos h0 k
  constructor
  · intro hz
    rwa [hz, zero_add] at hsum
  · intro hdvd
    exact Nat.eq_zero_of_dvd_of_lt ((Nat.dvd_add_left hdvd).mp hsum) (h.lt hpos h0 k)

end

/-! ### The scanline counter (spec/52_mapper_boards.md R487, R490, R491) -/

/-- The clocks from one request to the next (R491). -/
def Mmc3.period (m : Mmc3) : Mmc3IrqMode → Nat
  | .source => max m.irqLatch.toNat 1
  | .hardware => m.irqLatch.toNat + 1

/-- What the counter counts from at the next clock: a reload that is due counts as 0. -/
def Mmc3.due (m : Mmc3) : Nat := if m.irqReload = true then 0 else m.irqCounter.toNat

theorem Mmc3.period_pos (m : Mmc3) (mode : Mmc3IrqMode) : 0 < m.period mode := by
  cases mode <;> simp [Mmc3.period]

theorem Mmc3.due_eq_zero {m : Mmc3} : m.due = 0 ↔ (m.irqCounter == 0 || m.irqReload) = true := by
  unfold Mmc3.due
  cases m.irqReload with
  | true => simp
  | false => simp [← BitVec.toNat_inj]

theorem byte_sub_one_toNat {v : Byte} (h : v.toNat ≠ 0) : (v - 1).toNat = v.toNat - 1 := by
  have := v.isLt
  rw [BitVec.toNat_sub]
  simp
  omega

/-- One clock writes the counter and leaves no reload due. -/
theorem Mmc3.counted_eq (mode : Mmc3IrqMode) (m : Mmc3) :
    ∃ v : Byte, m.counted mode = { m with irqCounter := v, irqReload := false } ∧
      v.toNat = if m.due = 0 then m.period mode - 1 else m.due - 1 := by
  unfold Mmc3.counted
  by_cases hdue : m.due = 0
  · simp only [Mmc3.due_eq_zero.mp hdue, if_pos hdue, if_true]
    cases mode with
    | hardware => exact ⟨m.irqLatch, rfl, rfl⟩
    | source =>
      by_cases hlatch : m.irqLatch = 0
      · exact ⟨0, by simp [Mmc3.reload, hlatch], by simp [Mmc3.period, hlatch]⟩
      · have hne : m.irqLatch.toNat ≠ 0 := fun h => hlatch (BitVec.eq_of_toNat_eq h)
        refine ⟨m.irqLatch - 1, if_neg hlatch, ?_⟩
        rw [byte_sub_one_toNat hne, Mmc3.period, max_eq_left (Nat.pos_of_ne_zero hne)]
  · have hrun : (m.irqCounter == 0 || m.irqReload) = false := Bool.eq_false_iff.mpr (mt Mmc3.due_eq_zero.mpr hdue)
    obtain ⟨hcounter, hreload⟩ := Bool.or_eq_false_iff.mp hrun
    rw [Mmc3.due, hreload, if_neg Bool.false_ne_true] at hdue ⊢
    refine ⟨m.irqCounter - 1, ?_, by rw [byte_sub_one_toNat hdue, if_neg hdue]⟩
    simp only [hcounter]
    cases mode <;> simp_all

section
variable (mode : Mmc3IrqMode) (m : Mmc3)

theorem Mmc3.clock_due : (m.clock mode).1.due = if m.due = 0 then m.period mode - 1 else m.due - 1 := by
  obtain ⟨v, hcounted, hv⟩ := m.counted_eq mode
  rw [← hv, Mmc3.clock, hcounted]
  rfl

theorem Mmc3.clock_latch : (m.clock mode).1.irqLatch = m.irqLatch := by
  obtain ⟨v, hcounted, -⟩ := m.counted_eq mode
  rw [Mmc3.clock, hcounted]

theorem Mmc3.clock_enable : (m.clock mode).1.irqEnable = m.irqEnable := by
  obtain ⟨v, hcounted, -⟩ := m.counted_eq mode
  rw [Mmc3.clock, hcounted]

/-- A clock requests an interrupt when it takes the counter to 0 while the interrupt is enabled. -/
theorem Mmc3.clock_events :
    (m.clock mode).2 = if m.irqEnable = true ∧ (m.clock mode).1.due = 0 then [.irq] else [] := by
  obtain ⟨v, hcounted, -⟩ := m.counted_eq mode
  simp only [Mmc3.clock, hcounted, Mmc3.due, and_comm, ← BitVec.toNat_inj]
  rfl

theorem Mmc3.afterClocks_latch (k : Nat) : (m.afterClocks mode k).irqLatch = m.irqLatch := by
  induction k with
  | zero => rfl
  | succ k ih => exact (Mmc3.clock_latch mode _).trans ih

theorem Mmc3.afterClocks_enable (k : Nat) : (m.afterClocks mode k).irqEnable = m.irqEnable := by
  induction k with
  | zero => rfl
  | succ k ih => exact (Mmc3.clock_enable mode _).trans ih

theorem Mmc3.afterClocks_period (k : Nat) : (m.afterClocks mode k).period mode = m.period mode := by
  unfold Mmc3.period
  rw [Mmc3.afterClocks_latch]

theorem Mmc3.afterClocks_countdown : IsCountdown (m.period mode) fun k => (m.afterClocks mode (k + 1)).due := by
  intro k
  have hclock := Mmc3.clock_due mode (m.afterClocks mode (k + 1))
  rwa [Mmc3.afterClocks_period] at hclock

end

/-- Settles O54: from a reload on, the counter is a countdown with the period. -/
theorem scanlineInterruptPeriod : Obligations.ScanlineInterruptPeriod := by
  intro mode m k hreload period
  have hstart : (m.afterClocks mode 1).due = m.period mode - 1 :=
    (m.clock_due mode).trans (if_pos (if_pos hreload))
  have hzero := (m.afterClocks_countdown mode).eq_zero_iff (m.period_pos mode) hstart k
  have hperiod : m.period mode = period := by cases mode <;> rfl
  rw [Mmc3.clock_events, Mmc3.afterClocks_enable, ← hperiod]
  exact if_congr (and_congr_right' hzero) rfl rfl

/-! ### The cycle-based generator (spec/51_mapper_common.md R426) -/

/-- The CPU cycles from one request to the next. -/
def CycleIrq.period (divide : Nat) (g : CycleIrq) : Nat := divide * (g.latch.toNat + 1)

/-- The CPU cycles that pass before the one that requests. -/
def CycleIrq.due (divide : Nat) (g : CycleIrq) : Nat := g.counter.toNat * divide + (divide - 1 - g.prescaler)

theorem CycleIrq.tick_latch (divide : Nat) (g : CycleIrq) : (g.tick divide).1.latch = g.latch := by
  unfold CycleIrq.tick
  split
  · split <;> rfl
  · rfl

theorem CycleIrq.afterTicks_latch (divide k : Nat) (g : CycleIrq) : (g.afterTicks divide k).latch = g.latch := by
  induction k with
  | zero => rfl
  | succ k ih => exact (CycleIrq.tick_latch divide _).trans ih

theorem CycleIrq.afterTicks_prescaler_lt {divide : Nat} {g : CycleIrq} (h : g.prescaler < divide) (k : Nat) :
    (g.afterTicks divide k).prescaler < divide := by
  have hticks := CycleIrq.ticks_prescaler_lt divide k g h
  rwa [CycleIrq.ticks_eq] at hticks

theorem CycleIrq.tick_of_disabled (divide : Nat) {g : CycleIrq} (h : g.enabled = false) : (g.tick divide).2 = [] := by
  unfold CycleIrq.tick
  split
  · split
    · exact if_neg (by rw [h]; exact Bool.false_ne_true)
    · rfl
  · rfl

section
variable {divide : Nat} {g : CycleIrq} (h : g.prescaler < divide)
include h

theorem CycleIrq.due_eq_zero : g.due divide = 0 ↔ g.prescaler + 1 = divide ∧ g.counter = 0 := by
  have hdivide : divide ≠ 0 := by omega
  rw [CycleIrq.due, Nat.add_eq_zero_iff, mul_eq_zero, or_iff_left hdivide, and_comm, ← BitVec.toNat_inj]
  exact and_congr_left' (by omega)

theorem CycleIrq.tick_due :
    (g.tick divide).1.due divide = if g.due divide = 0 then g.period divide - 1 else g.due divide - 1 := by
  simp only [CycleIrq.due_eq_zero h]
  unfold CycleIrq.tick CycleIrq.due CycleIrq.period
  by_cases hprescaler : g.prescaler + 1 = divide
  · by_cases hcounter : g.counter = 0
    · have hround : divide * (g.latch.toNat + 1) = g.latch.toNat * divide + divide := by ring
      simp only [hprescaler, hcounter, if_true, and_self]
      omega
    · have hne : g.counter.toNat ≠ 0 := fun hz => hcounter (BitVec.eq_of_toNat_eq hz)
      obtain ⟨c, hc⟩ := Nat.exists_eq_add_one_of_ne_zero hne
      simp only [hprescaler, hcounter, if_true, if_false, and_false, byte_sub_one_toNat hne, hc, Nat.add_sub_cancel,
        Nat.succ_mul]
      omega
  · simp only [hprescaler, if_false, false_and]
    omega

theorem CycleIrq.tick_events : (g.tick divide).2 = if g.enabled = true ∧ g.due divide = 0 then [.irq] else [] := by
  simp only [CycleIrq.due_eq_zero h, CycleIrq.tick]
  by_cases hprescaler : g.prescaler + 1 = divide
  · by_cases hcounter : g.counter = 0
    · simp only [hprescaler, hcounter, if_true, and_true]
    · simp only [hprescaler, hcounter, if_true, if_false, and_false]
  · simp only [hprescaler, if_false, false_and, and_false]

theorem CycleIrq.afterTicks_countdown : IsCountdown (g.period divide) fun k => (g.afterTicks divide k).due divide := by
  intro k
  have htick := CycleIrq.tick_due (CycleIrq.afterTicks_prescaler_lt h k)
  rwa [CycleIrq.period, CycleIrq.afterTicks_latch] at htick

end

/-- A generator that has just taken its latch, as `setControl` leaves it, has a whole period to go. -/
theorem CycleIrq.due_operate_setControl {divide : Nat} (g : CycleIrq) (v : Byte) (h : 0 < divide) :
    (g.operate .setControl v).1.due divide = (g.operate .setControl v).1.period divide - 1 := by
  have hround : divide * (g.latch.toNat + 1) = g.latch.toNat * divide + divide := by ring
  show g.latch.toNat * divide + (divide - 1 - 0) = divide * (g.latch.toNat + 1) - 1
  omega

/-! ### What the host's calls of the two clocks do -/

theorem State.withCart_of_none {s : State} (f : Cartridge → Cartridge × List BusEvent) (h : s.cart = none) :
    s.withCart f = s := by
  rw [State.withCart, h]

theorem State.withCart_of_some {s : State} {c : Cartridge} (f : Cartridge → Cartridge × List BusEvent) (h : s.cart = some c) :
    s.withCart f = (s.setCart (some (f c).1)).receiveAll (f c).2 := by
  rw [State.withCart, h]

/-- A cartridge operation that leaves the cartridge and emits nothing leaves the machine. -/
theorem State.withCart_of_unchanged {s : State} {c : Cartridge} {f : Cartridge → Cartridge × List BusEvent}
    (h : s.cart = some c) (hf : f c = (c, [])) : s.withCart f = s := by
  have hcart : s.setCart (some c) = s := by rw [← h]; rfl
  rw [State.withCart_of_some f h, hf, hcart, State.receiveAll, List.append_nil]
  rfl

/-- A cartridge operation that emits requests only: any number of them count as one `signal IRQ`. -/
theorem State.withCart_requests {s : State} {c : Cartridge} {f : Cartridge → Cartridge × List BusEvent}
    (h : s.cart = some c) (hf : ∀ e ∈ (f c).2, e = .irq) :
    let t := s.begin.withCart f
    t.cart = some (f c).1 ∧ t.events = (f c).2 ∧ (.irq ∉ t.events → t.pending = s.pending) ∧
      (.irq ∈ t.events → t.pending = s.signalIrq.pending) := by
  intro t
  have ht : t = (s.begin.setCart (some (f c).1)).receiveAll (f c).2 := State.withCart_of_some f h
  have hevents : t.events = (f c).2 := by rw [ht]; rfl
  have hpending : t.pending = if (f c).2 = [] then s.pending else s.signalIrq.pending := by
    rw [ht]
    exact (s.begin.setCart _).eventsPending_requests _ hf
  rw [hevents, hpending]
  refine ⟨by rw [ht]; rfl, rfl, fun hno => if_pos ?_, fun hirq => if_neg (List.ne_nil_of_mem hirq)⟩
  exact List.eq_nil_iff_forall_not_mem.mpr fun e he => hno (hf e he ▸ he)

theorem videoQualifies_iff {irqCycle sl cy : Int} {bg sp : Bool} :
    videoQualifies irqCycle sl cy bg sp = true ↔ cy = irqCycle ∧ 0 ≤ sl ∧ sl ≤ 239 ∧ (bg = true ∨ sp = true) := by
  simp [videoQualifies, and_assoc]

section
variable {cfg : Config} {c : Cartridge} {sl cy : Int} {bg sp : Bool}

theorem Cartridge.stepVideo_unqualified (h : ¬ videoQualifies cfg.mmc3IrqCycle sl cy bg sp = true) :
    c.stepVideo cfg sl cy bg sp = (c, []) := by
  unfold Cartridge.stepVideo
  split
  · exact if_neg h
  · rfl
  · rfl

theorem Cartridge.stepVideo_of_not_mmc3 (h : ∀ m, c.board ≠ .mmc3 m) : c.stepVideo cfg sl cy bg sp = (c, []) := by
  unfold Cartridge.stepVideo
  split
  next m hm => exact absurd hm (h m)
  · rfl
  · rfl

theorem Cartridge.stepVideo_mmc3 {m : Mmc3} (hm : c.board = .mmc3 m)
    (h : videoQualifies cfg.mmc3IrqCycle sl cy bg sp = true) :
    c.stepVideo cfg sl cy bg sp = ({ c with board := .mmc3 (m.clock cfg.mmc3IrqMode).1 }, (m.clock cfg.mmc3IrqMode).2) := by
  rw [Cartridge.stepVideo, hm]
  exact if_pos h

end

/-- Settles O55: a video step either leaves the cartridge or is one clock. -/
theorem videoStepQualification : Obligations.VideoStepQualification := by
  intro s sl cy bg sp t qualifies
  have hqualifies : videoQualifies s.cfg.mmc3IrqCycle sl cy bg sp = true ↔ qualifies := videoQualifies_iff
  refine ⟨fun hno => ?unqualified, fun hc => State.withCart_of_none (s := s.begin) _ hc, fun c hc =>
    ⟨fun hboard => State.withCart_of_unchanged (s := s.begin) hc (Cartridge.stepVideo_of_not_mmc3 hboard),
      fun m hm hyes => ?clock⟩⟩
  case unqualified =>
    cases hc : s.cart with
    | none => exact State.withCart_of_none (s := s.begin) _ hc
    | some c =>
      exact State.withCart_of_unchanged (s := s.begin) hc (Cartridge.stepVideo_unqualified (mt hqualifies.mp hno))
  case clock =>
    have hstep : c.stepVideo s.cfg sl cy bg sp = _ := Cartridge.stepVideo_mmc3 hm (hqualifies.mpr hyes)
    have hrequests : ∀ e ∈ (c.stepVideo s.cfg sl cy bg sp).2, e = .irq := by
      rw [hstep, Mmc3.clock_events]
      intro e he
      split at he
      · exact List.mem_singleton.mp he
      · cases he
    obtain ⟨hcart, hevents, hnone, hirq⟩ := State.withCart_requests (f := fun c => c.stepVideo s.cfg sl cy bg sp) hc hrequests
    rw [hstep] at hcart hevents
    exact ⟨hcart, hevents, fun h => hnone (h ▸ List.not_mem_nil), fun h => hirq (h ▸ List.mem_singleton_self _)⟩

section
variable {cfg : Config} {c : Cartridge} (n : Nat)

theorem Cartridge.tickCpu_of_none (h : c.cycleIrq = none) : c.tickCpu cfg n = (c, []) := by
  rw [Cartridge.tickCpu, h]

theorem Cartridge.tickCpu_of_some {g : CycleIrq} (h : c.cycleIrq = some g) :
    c.tickCpu cfg n = ({ c with cycleIrq := some (g.afterTicks cfg.cycleIrqDivide n) },
      (List.range n).flatMap fun k => ((g.afterTicks cfg.cycleIrqDivide k).tick cfg.cycleIrqDivide).2) := by
  rw [Cartridge.tickCpu, h]
  dsimp only
  rw [CycleIrq.ticks_eq]

end

/-! ### The nybble slots (spec/51_mapper_common.md R428) -/

/-- The byte that a high write of slot j commits: the new nybble above the pending one. -/
def NybbleRegs.merged (r : NybbleRegs) (j : Fin 12) (h : Byte) : Byte := h.extractLsb' 0 4 ++ r.pendLo[j]

theorem NybbleRegs.merged_toNat (r : NybbleRegs) (j : Fin 12) (h : Byte) :
    (r.merged j h).toNat = h.toNat % 16 * 16 + r.pendLo[j].toNat := by
  have hlow := r.pendLo[j].isLt
  rw [NybbleRegs.merged, BitVec.toNat_append, Nat.shiftLeft_eq, Nat.mul_comm, ← Nat.two_pow_add_eq_or_of_lt hlow,
    BitVec.extractLsb'_toNat]
  simp
  omega

theorem NybbleRegs.merged_eq (r : NybbleRegs) (j : Fin 12) (h : Byte) :
    h.extractLsb' 0 4 ++ r.pendLo[j.val]?.getD 0 = r.merged j h := by
  have hpend : r.pendLo[j.val]?.getD 0 = r.pendLo[j] := by simp
  rw [hpend]
  rfl

theorem NybbleRegs.writeHigh_of_lt (r : NybbleRegs) {j : Fin 12} (hj : j.val < 4) (h : Byte) :
    r.writeHigh j h = { r with prgSlot := r.prgSlot.setIfInBounds j (r.merged j h) } := by
  rw [NybbleRegs.writeHigh, r.merged_eq]
  exact if_pos hj

theorem NybbleRegs.writeHigh_of_ge (r : NybbleRegs) {j : Fin 12} (hj : ¬ j.val < 4) (h : Byte) :
    r.writeHigh j h = { r with chrSlot := r.chrSlot.setIfInBounds (j - 4) (r.merged j h) } := by
  rw [NybbleRegs.writeHigh, r.merged_eq]
  exact if_neg hj

theorem NybbleRegs.writeLow_pendLo (r : NybbleRegs) (i j : Fin 12) (l : Byte) :
    (r.writeLow j l).pendLo[i].toNat = if i = j then l.toNat % 16 else r.pendLo[i].toNat := by
  show (r.pendLo.setIfInBounds j (l.extractLsb' 0 4))[i.val].toNat = _
  rw [Vector.getElem_setIfInBounds, apply_ite BitVec.toNat, BitVec.extractLsb'_toNat]
  exact if_congr (by rw [Fin.ext_iff, eq_comm]) rfl rfl

theorem NybbleRegs.writeHigh_prgSlot (r : NybbleRegs) (i : Fin 4) (j : Fin 12) (h : Byte) :
    (r.writeHigh j h).prgSlot[i] = if i.val = j.val then r.merged j h else r.prgSlot[i] := by
  by_cases hj : j.val < 4
  · rw [r.writeHigh_of_lt hj]
    exact (Vector.getElem_setIfInBounds ..).trans (if_congr eq_comm rfl rfl)
  · rw [r.writeHigh_of_ge hj]
    exact (if_neg (by omega)).symm

theorem NybbleRegs.writeHigh_chrSlot (r : NybbleRegs) (i : Fin 8) (j : Fin 12) (h : Byte) :
    (r.writeHigh j h).chrSlot[i] = if i.val + 4 = j.val then r.merged j h else r.chrSlot[i] := by
  by_cases hj : j.val < 4
  · rw [r.writeHigh_of_lt hj]
    exact (if_neg (by omega)).symm
  · rw [r.writeHigh_of_ge hj]
    exact (Vector.getElem_setIfInBounds ..).trans (if_congr (by omega) rfl rfl)

theorem NybbleRegs.writeHigh_pendLo (r : NybbleRegs) (j : Nat) (h : Byte) : (r.writeHigh j h).pendLo = r.pendLo := by
  unfold NybbleRegs.writeHigh
  dsimp only
  split <;> rfl

/-- Settles O56: the generator is a countdown, the host call its cycles in a row, and a slot one entry of a vector. -/
theorem cycleInterruptPeriodAndNybbles : Obligations.CycleInterruptPeriodAndNybbles := by
  refine ⟨?period, ?disabled, fun g v => ⟨rfl, rfl, rfl⟩, ?host, ?nybbles⟩
  case period =>
    intro divide g v k hdivide hv g1
    have hprescaler : g1.prescaler < divide := hdivide
    have hzero := (CycleIrq.afterTicks_countdown hprescaler).eq_zero_iff (Nat.mul_pos hdivide (Nat.succ_pos _))
      (g.due_operate_setControl v hdivide) k
    rw [CycleIrq.tick_events (CycleIrq.afterTicks_prescaler_lt hprescaler k), CycleIrq.afterTicks_enabled]
    exact if_congr ((and_iff_right hv).trans hzero) rfl rfl
  case disabled =>
    intro divide g k hg
    exact CycleIrq.tick_of_disabled divide ((g.afterTicks_enabled divide k).trans hg)
  case host =>
    intro s c n hc t d
    refine ⟨fun hg => State.withCart_of_unchanged (s := s.begin) hc (Cartridge.tickCpu_of_none n hg), fun g hg => ?_⟩
    have htick : c.tickCpu s.cfg n = _ := Cartridge.tickCpu_of_some n hg
    have hrequests : ∀ e ∈ (c.tickCpu s.cfg n).2, e = .irq := by
      rw [htick]
      intro e he
      obtain ⟨k, -, hk⟩ := List.mem_flatMap.mp he
      exact CycleIrq.tick_requests _ _ e hk
    have hcall := State.withCart_requests (f := fun c => c.tickCpu s.cfg n) hc hrequests
    rwa [htick] at hcall
  case nybbles =>
    intro r j l h low high
    refine ⟨rfl, rfl, fun i => r.writeLow_pendLo i j l, r.writeHigh_pendLo j h, fun i => ?_, fun i => ?_⟩
    · rw [r.writeHigh_prgSlot, apply_ite BitVec.toNat, r.merged_toNat]
    · rw [r.writeHigh_chrSlot, apply_ite BitVec.toNat, r.merged_toNat]

end Sys2Proof.Machine
end

section
/-! PROOFS. The NROM-class and MMC1-class boards (spec/52_mapper_boards.md R450 to R466): their windows as remainders, and the
serial port of the MMC1-class registers. -/

namespace Sys2Proof.Machine

/-! ### Windows: what a bank number shows -/

section
variable {len k : Nat} (within : Nat)

theorem windowOffset_natCast (b : Nat) : windowOffset b len k within = b % (len / k) * k + within := by
  rw [windowOffset, bankCount, bankIndex_natCast]

/-- A bank counted from the end, in the spelling of the statements. -/
theorem windowOffset_neg {j : Nat} (hj : 0 < j) (hn : j ≤ len / k) :
    windowOffset (-j) len k within = (len / k - j) % (len / k) * k + within := by
  rw [windowOffset, bankCount, bankIndex_neg (by omega) hj hn, Nat.mod_eq_of_lt (by omega)]

end

/-- The PRG window of an address, by the slot it lies in. -/
theorem Cartridge.prgOffset_slot {c : Cartridge} {a k slot : Nat} (hk : c.board.prgWindow = k) (hdvd : k ∣ 0x8000)
    (hlo : 0x8000 + slot * k ≤ a) (hhi : a < 0x8000 + (slot + 1) * k) :
    c.prgOffset a = windowOffset (c.board.prgBank slot) c.prgLen k (a % k) := by
  have hslot : (a - 0x8000) / k = slot := Nat.div_eq_of_lt_le (by omega) (by omega)
  have hwithin : (a - 0x8000) % k = a % k := by
    obtain ⟨q, hq⟩ := hdvd
    conv_rhs => rw [← Nat.sub_add_cancel (show 0x8000 ≤ a by omega), hq, Nat.add_mul_mod_self_left]
    rw [hq]
  rw [Cartridge.prgOffset]
  simp only [hk, hslot, hwithin]

theorem Cartridge.chrOffset_slot {c : Cartridge} {a k slot : Nat} (hk : c.board.chrWindow = k)
    (hlo : slot * k ≤ a) (hhi : a < (slot + 1) * k) :
    c.chrOffset a = windowOffset (c.board.chrBank slot) c.chrLen k (a % k) := by
  have hslot : a / k = slot := Nat.div_eq_of_lt_le hlo hhi
  rw [Cartridge.chrOffset]
  simp only [hk, hslot]

/-- The PRG window of an address shows the bank that the board gives its slot, counted from the start. -/
theorem Cartridge.prgOffset_natCast {c : Cartridge} {a k slot b : Nat} (hk : c.board.prgWindow = k) (hdvd : k ∣ 0x8000)
    (hlo : 0x8000 + slot * k ≤ a) (hhi : a < 0x8000 + (slot + 1) * k) (hb : c.board.prgBank slot = b) :
    c.prgOffset a = b % (c.prgLen / k) * k + a % k := by
  rw [Cartridge.prgOffset_slot hk hdvd hlo hhi, hb, windowOffset_natCast]

/-- The same for a bank counted from the end. -/
theorem Cartridge.prgOffset_neg {c : Cartridge} {a k slot j : Nat} (hk : c.board.prgWindow = k) (hdvd : k ∣ 0x8000)
    (hlo : 0x8000 + slot * k ≤ a) (hhi : a < 0x8000 + (slot + 1) * k) (hb : c.board.prgBank slot = -j) (hj : 0 < j)
    (hn : j ≤ c.prgLen / k) : c.prgOffset a = (c.prgLen / k - j) % (c.prgLen / k) * k + a % k := by
  rw [Cartridge.prgOffset_slot hk hdvd hlo hhi, hb, windowOffset_neg _ hj hn]

theorem Cartridge.chrOffset_natCast {c : Cartridge} {a k slot b : Nat} (hk : c.board.chrWindow = k)
    (hlo : slot * k ≤ a) (hhi : a < (slot + 1) * k) (hb : c.board.chrBank slot = b) :
    c.chrOffset a = b % (c.chrLen / k) * k + a % k := by
  rw [Cartridge.chrOffset_slot hk hlo hhi, hb, windowOffset_natCast]

/-! ### The NROM-class board (spec/52_mapper_boards.md R451 to R453) -/

theorem bankSwitches_self (c : Cartridge) : bankSwitches c c = [] := by
  rw [bankSwitches, List.map_eq_nil_iff, List.filter_eq_nil_iff]
  intro w hw
  have hsame : w.1 = w.2 := by
    obtain ⟨i, hi, rfl⟩ := List.mem_iff_getElem.mp hw
    rw [List.getElem_zip]
  simp [hsame]

theorem notifications_self (c : Cartridge) : notifications c c = [] := by
  rw [notifications, if_neg (not_not.mpr rfl), bankSwitches_self]
  rfl

/-- A cartridge with no embedded component has the board's effect of a register write only. -/
theorem Cartridge.componentWrite_of_none (cfg : Config) {c : Cartridge} (a : Word) (v : Byte) (hg : c.cycleIrq = none)
    (hr : c.nybble = none) : c.componentWrite cfg a v = (c, []) := by
  have hsame : { c with cycleIrq := none, nybble := none } = c := by rw [← hg, ← hr]
  rw [Cartridge.componentWrite, hg, hr]
  exact congrArg (·, []) hsame

theorem Cartridge.registerWrite_nrom (cfg : Config) {c : Cartridge} (a : Word) (v : Byte) (hb : c.board = .nrom)
    (hg : c.cycleIrq = none) (hr : c.nybble = none) : c.registerWrite cfg a v = (c, []) := by
  have hboard : c.boardWrite a v = (c, []) := by rw [Cartridge.boardWrite, hb]
  rw [Cartridge.registerWrite, hboard]
  simp only [c.componentWrite_of_none cfg a v hg hr, notifications_self, List.append_nil]

/-! ### The windows of the MMC1-class board (spec/52_mapper_boards.md R462 to R464) -/

theorem Mmc1.prgMode_toNat (m : Mmc1) : m.prgMode.toNat = m.control.toNat / 4 % 4 := by
  rw [Mmc1.prgMode, BitVec.extractLsb'_toNat, Nat.shiftRight_eq_div_pow]

theorem low_four_bits (r : BitVec 5) : (r &&& 0x0F).toNat = r.toNat % 16 := by revert r; decide

theorem even_of_low_four_bits (r : BitVec 5) : (r &&& 0x0E).toNat = r.toNat % 16 / 2 * 2 := by revert r; decide

theorem even_bank (r : BitVec 5) : (r &&& 0x1E).toNat = r.toNat / 2 * 2 := by revert r; decide

theorem odd_bank (r : BitVec 5) : ((r &&& 0x1E) ||| 1).toNat = r.toNat / 2 * 2 + 1 := by revert r; decide

section
variable {m : Mmc1} (slot : Nat)

theorem Mmc1.prgBank_fixedFirst (h : m.control.toNat / 4 % 4 = 2) :
    m.prgBank slot = ((if slot = 0 then 0 else m.prgReg.toNat % 16 : Nat) : Int) := by
  rw [Mmc1.prgBank, Mmc1.prgMode_toNat, h, low_four_bits, apply_ite Nat.cast]
  rfl

theorem Mmc1.prgBank_fixedLast (h : m.control.toNat / 4 % 4 = 3) :
    m.prgBank slot = if slot = 0 then ((m.prgReg.toNat % 16 : Nat) : Int) else -1 := by
  rw [Mmc1.prgBank, Mmc1.prgMode_toNat, h, low_four_bits]
  rfl

theorem Mmc1.prgBank_pair (h2 : m.control.toNat / 4 % 4 ≠ 2) (h3 : m.control.toNat / 4 % 4 ≠ 3) :
    m.prgBank slot =
      ((if slot = 0 then m.prgReg.toNat % 16 / 2 * 2 else m.prgReg.toNat % 16 / 2 * 2 + 1 : Nat) : Int) := by
  rw [Mmc1.prgBank, Mmc1.prgMode_toNat, even_of_low_four_bits]
  split
  next h => exact absurd h h2
  next h => exact absurd h h3
  · split <;> rfl

end

theorem Mmc1.chrBank_eq (m : Mmc1) (slot : Nat) :
    m.chrBank slot = ((if m.control.getLsbD 4 = true then (if slot = 0 then m.chr0.toNat else m.chr1.toNat)
      else if slot = 0 then m.chr0.toNat / 2 * 2 else m.chr0.toNat / 2 * 2 + 1 : Nat) : Int) := by
  rw [Mmc1.chrBank, Mmc1.chrMode, even_bank, odd_bank]
  split <;> split <;> rfl

section
variable {c : Cartridge} {m : Mmc1} {a : Nat} (hb : c.board = .mmc1 m)
include hb

/-- The two 16 KiB windows, for a bank counted from the start. -/
theorem Cartridge.prgOffset_mmc1 (slot : Nat) {b : Nat} (hbank : m.prgBank slot = b) (hlo : 0x8000 + slot * 16384 ≤ a)
    (hhi : a < 0x8000 + (slot + 1) * 16384) : c.prgOffset a = b % (c.prgLen / 16384) * 16384 + a % 16384 :=
  Cartridge.prgOffset_natCast (by rw [hb]; rfl) (by decide) hlo hhi (by rw [hb]; exact hbank)

theorem Cartridge.chrOffset_mmc1 (slot : Nat) {b : Nat} (hbank : m.chrBank slot = b) (hlo : slot * 4096 ≤ a)
    (hhi : a < (slot + 1) * 4096) : c.chrOffset a = b % (c.chrLen / 4096) * 4096 + a % 4096 :=
  Cartridge.chrOffset_natCast (by rw [hb]; rfl) hlo hhi (by rw [hb]; exact hbank)

theorem Cartridge.prgOffset_mmc1_low (hlo : 0x8000 ≤ a) (hhi : a < 0xC000) :
    c.prgOffset a = (match m.control.toNat / 4 % 4 with
      | 2 => 0
      | 3 => m.prgReg.toNat % 16
      | _ => m.prgReg.toNat % 16 / 2 * 2) % (c.prgLen / 16384) * 16384 + a % 16384 := by
  split
  next h => exact Cartridge.prgOffset_mmc1 hb 0 (Mmc1.prgBank_fixedFirst 0 h) hlo hhi
  next h => exact Cartridge.prgOffset_mmc1 hb 0 (Mmc1.prgBank_fixedLast 0 h) hlo hhi
  next h2 h3 => exact Cartridge.prgOffset_mmc1 hb 0 (Mmc1.prgBank_pair 0 h2 h3) hlo hhi

theorem Cartridge.prgOffset_mmc1_high (hn : 1 ≤ c.prgLen / 16384) (hlo : 0xC000 ≤ a) (hhi : a < 0x10000) :
    c.prgOffset a = (match m.control.toNat / 4 % 4 with
      | 2 => m.prgReg.toNat % 16
      | 3 => c.prgLen / 16384 - 1
      | _ => m.prgReg.toNat % 16 / 2 * 2 + 1) % (c.prgLen / 16384) * 16384 + a % 16384 := by
  split
  next h => exact Cartridge.prgOffset_mmc1 hb 1 (Mmc1.prgBank_fixedFirst 1 h) hlo hhi
  next h =>
    have hlast : c.board.prgBank 1 = -(1 : Nat) := by rw [hb]; exact Mmc1.prgBank_fixedLast 1 h
    exact Cartridge.prgOffset_neg (by rw [hb]; rfl) (by decide) hlo hhi hlast one_pos hn
  next h2 h3 => exact Cartridge.prgOffset_mmc1 hb 1 (Mmc1.prgBank_pair 1 h2 h3) hlo hhi

end

/-- Settles O50: each window is a slot of the board, and the slot's bank a remainder. -/
theorem nromAndMmc1Windows : Obligations.NromAndMmc1Windows := by
  refine ⟨fun cfg c a w v hb => ⟨fun hbanks hpos hlo hhi => ?nromPrg, fun ha => ?nromChr, fun hg hr hw => ?nromWrite⟩,
    fun c m a hb => ⟨fun hbanks hpos => ⟨Cartridge.prgOffset_mmc1_low hb, Cartridge.prgOffset_mmc1_high hb (by omega)⟩,
      fun hhi => ?chrLow, fun hlo hhi => ?chrHigh⟩⟩
  case nromPrg =>
    have hk : c.board.prgWindow = 16384 := by rw [hb]; rfl
    have hbank (slot : Nat) : c.board.prgBank slot = slot := by rw [hb]; rfl
    split
    · exact Cartridge.prgOffset_natCast hk (by decide) (slot := 0) (by omega) (by omega) (hbank 0)
    · exact Cartridge.prgOffset_natCast hk (by decide) (slot := 1) (by omega) (by omega) (hbank 1)
  case nromChr =>
    have hk : c.board.chrWindow = 8192 := by rw [hb]; rfl
    have hbank : c.board.chrBank 0 = (0 : Nat) := by rw [hb]; rfl
    rw [Cartridge.chrOffset_natCast hk (slot := 0) (by omega) (by omega) hbank, Nat.zero_mod, Nat.zero_mul, Nat.zero_add,
      Nat.mod_eq_of_lt ha]
  case nromWrite => rw [c.write_register cfg v hw, c.registerWrite_nrom cfg w v hb hg hr]
  case chrLow => exact Cartridge.chrOffset_mmc1 hb 0 (m.chrBank_eq 0) (by omega) hhi
  case chrHigh => exact Cartridge.chrOffset_mmc1 hb 1 (m.chrBank_eq 1) hlo hhi

/-! ### The serial port of the MMC1-class board (spec/52_mapper_boards.md R461, R466) -/

theorem Mmc1.selector_toNat (a : Word) : (Mmc1.selector a).toNat = a.toNat / 0x2000 % 4 := by
  rw [Mmc1.selector, BitVec.extractLsb'_toNat, Nat.shiftRight_eq_div_pow]

/-- The registers with the first `i` bits of a value received, least significant first. -/
def Mmc1.receiving (m : Mmc1) (value : BitVec 5) (i : Nat) : Mmc1 :=
  { m with shift := BitVec.ofNat 5 (value.toNat % 2 ^ i), count := i }

/-- The shift register after one more bit of a value. -/
theorem shift_received (value : BitVec 5) (i : Fin 5) :
    BitVec.ofNat 5 (value.toNat % 2 ^ i.val) ||| ((if value.getLsbD i then 1 else 0) <<< i.val) =
      BitVec.ofNat 5 (value.toNat % 2 ^ (i.val + 1)) := by
  revert value i
  decide

theorem Mmc1.receiving_received (m : Mmc1) {value : BitVec 5} {v : Byte} (i : Fin 5) (h0 : v.getLsbD 0 = value.getLsbD i) :
    (m.receiving value i).received v = BitVec.ofNat 5 (value.toNat % 2 ^ (i.val + 1)) := by
  rw [← shift_received, ← h0]
  rfl

section
variable (m : Mmc1) {value : BitVec 5} (a : Word) {v : Byte} (h7 : v.getLsbD 7 = false)
include h7

/-- One of the first four writes of a serial load. -/
theorem Mmc1.receiving_write (i : Fin 5) (hi : i.val < 4) (h0 : v.getLsbD 0 = value.getLsbD i) :
    (m.receiving value i).write a v = m.receiving value (i + 1) := by
  have hcount : (m.receiving value i).count + 1 ≠ 5 := fun h => by
    have : i.val + 1 = 5 := h
    omega
  rw [Mmc1.write, h7, if_neg Bool.false_ne_true, if_neg hcount, m.receiving_received i h0]
  rfl

/-- The write that completes a serial load. -/
theorem Mmc1.receiving_write_fifth (h0 : v.getLsbD 0 = value.getLsbD 4) :
    (m.receiving value 4).write a v = (m.receiving value 4).load (Mmc1.selector a) value := by
  have hall : BitVec.ofNat 5 (value.toNat % 2 ^ 5) = value := by
    rw [Nat.mod_eq_of_lt value.isLt, BitVec.ofNat_toNat, BitVec.setWidth_eq]
  rw [Mmc1.write, h7, if_neg Bool.false_ne_true]
  refine (if_pos rfl).trans (congrArg _ ?_)
  exact (m.receiving_received 4 h0).trans hall

end

section
variable (m : Mmc1) (value : BitVec 5) (i : Nat) (hshift : m.shift = 0) (hcount : m.count = 0)
include hshift hcount

/-- What has been received is the only change: with it discarded, the registers are those before. -/
theorem Mmc1.receiving_emptied : { m.receiving value i with shift := 0, count := 0 } = m := by
  obtain ⟨shift, count, control, chr0, chr1, prgReg⟩ := m
  obtain rfl : shift = 0 := hshift
  obtain rfl : count = 0 := hcount
  rfl

theorem Mmc1.receiving_zero : m.receiving value 0 = m := by
  have hnone : m.receiving value 0 = { m.receiving value 0 with shift := 0, count := 0 } := by
    rw [Mmc1.receiving, pow_zero, Nat.mod_one]
    rfl
  exact hnone.trans (m.receiving_emptied value 0 hshift hcount)

/-- Which register a load writes. -/
theorem Mmc1.receiving_load (a : Word) :
    (m.receiving value i).load (Mmc1.selector a) value = match a.toNat / 0x2000 % 4 with
      | 0 => { m with control := value }
      | 1 => { m with chr0 := value }
      | 2 => { m with chr1 := value }
      | _ => { m with prgReg := value } := by
  obtain ⟨shift, count, control, chr0, chr1, prgReg⟩ := m
  obtain rfl : shift = 0 := hshift
  obtain rfl : count = 0 := hcount
  rw [Mmc1.load, Mmc1.selector_toNat]
  rfl

end

/-- The write with bit 7 set selects PRG mode 3 (R466). -/
theorem Mmc1.resetWrite_prgMode (control : BitVec 5) : (control ||| 0x0C).toNat / 4 % 4 = 3 := by revert control; decide

/-! ### Register writes to a cartridge with the MMC1-class board (spec/52_mapper_boards.md R461, R462) -/

theorem Mmc1.loadsControl_iff {m : Mmc1} {a : Word} {v : Byte} :
    m.loadsControl a v = true ↔ v.getLsbD 7 = false ∧ m.count = 4 ∧ a.toNat / 0x2000 % 4 = 0 := by
  rw [← Mmc1.selector_toNat]
  simp [Mmc1.loadsControl, and_assoc, ← BitVec.toNat_inj]

theorem Mmc1.mirroring_eq (m : Mmc1) : m.mirroring = match m.control.toNat % 4 with
    | 0 => .singleScreen0
    | 1 => .singleScreen1
    | 2 => .vertical
    | _ => .horizontal := by
  rw [Mmc1.mirroring, BitVec.extractLsb'_toNat]
  rfl

theorem Cartridge.boardWrite_mmc1 {c : Cartridge} {m : Mmc1} (hb : c.board = .mmc1 m) (a : Word) (v : Byte) :
    c.boardWrite a v = ({ c with
      board := .mmc1 (m.write a v)
      mirroring := if m.loadsControl a v then (m.write a v).mirroring else c.mirroring }, []) := by
  rw [Cartridge.boardWrite, hb]

/-- Settles O51: the five writes one after another, the reset write, and the write through the mapper. -/
theorem mmc1SerialWrites : Obligations.Mmc1SerialWrites := by
  refine ⟨?five, ?reset, ?mapper⟩
  case five =>
    intro m v a b hshift hcount hbits four m5
    have hwrite (i : Fin 5) (hi : i.val < 4) (x : Word) : (m.receiving v i).write x b[i] = m.receiving v (i + 1) :=
      m.receiving_write x (hbits i).1 i hi (hbits i).2
    have h1 : m.write a[0] b[0] = m.receiving v 1 :=
      (congrArg (Mmc1.write · a[0] b[0]) (m.receiving_zero v hshift hcount).symm).trans (hwrite 0 (by decide) _)
    have h2 : (m.receiving v 1).write a[1] b[1] = m.receiving v 2 := hwrite 1 (by decide) _
    have h3 : (m.receiving v 2).write a[2] b[2] = m.receiving v 3 := hwrite 2 (by decide) _
    have h4 : (m.receiving v 3).write a[3] b[3] = m.receiving v 4 := hwrite 3 (by decide) _
    have hfour : four = m.receiving v 4 := by simp only [four, h1, h2, h3, h4]
    have hfive : m5 = (m.receiving v 4).load (Mmc1.selector a[4]) v :=
      (congrArg (Mmc1.write · a[4] b[4]) hfour).trans (m.receiving_write_fifth a[4] (hbits 4).1 (hbits 4).2)
    rw [hfive, hfour, m.receiving_load v 4 hshift hcount]
    refine ⟨m.receiving_emptied v 4 hshift hcount, rfl, fun h => ?_, fun h => ?_, fun h => ?_, fun h => ?_⟩
    all_goals simp only [h]
  case reset =>
    intro m a v h7 w
    have hw : w = m.resetWrite := if_pos h7
    clear_value w
    subst hw
    have hmode : m.resetWrite.control.toNat / 4 % 4 = 3 := Mmc1.resetWrite_prgMode m.control
    have hbank (slot : Nat) : m.resetWrite.prgBank slot = if slot = 0 then ((m.prgReg.toNat % 16 : Nat) : Int) else -1 :=
      Mmc1.prgBank_fixedLast slot hmode
    refine ⟨rfl, rfl, rfl, hmode, rfl, rfl, rfl, ?_, hbank 1, fun hprg slot => ?_⟩
    · rw [low_four_bits]
      exact hbank 0
    · rw [hbank, hprg]
      exact (Mmc1.prgBank_fixedLast (m := Mmc1.powerOn) slot (by decide)).symm
  case mapper =>
    intro cfg c m a v hb ha d completes
    have hd : d = (c.registerWrite cfg a v).1 := congrArg Prod.fst (c.write_register cfg v ha)
    rw [Cartridge.registerWrite, c.boardWrite_mmc1 hb] at hd
    have hcompletes : m.loadsControl a v = true ↔ completes := Mmc1.loadsControl_iff
    rw [hd]
    refine ⟨rfl, rfl, fun hno => if_neg (mt hcompletes.mp hno), fun hyes => ?_⟩
    exact (if_pos (hcompletes.mpr hyes)).trans (Mmc1.mirroring_eq _)

end Sys2Proof.Machine
end

section
/-! PROOFS. The MMC3-class board (spec/52_mapper_boards.md R480 to R488): its windows as remainders, and the register that a
write selects. -/

namespace Sys2Proof.Machine

/-! ### Windows (spec/52_mapper_boards.md R482 to R485) -/

theorem low_six_bits (v : Byte) : (v &&& 0x3F).toNat = v.toNat % 64 := by revert v; decide

theorem even_byte (v : Byte) : (v &&& 0xFE).toNat = v.toNat / 2 * 2 := by revert v; decide

theorem odd_byte (v : Byte) : (v ||| 0x01).toNat = v.toNat / 2 * 2 + 1 := by revert v; decide

/-- The eight banks that the character windows show, in the order of the windows. -/
def Mmc3.chrBanks (m : Mmc3) : List Nat :=
  let pairs := [m.bank[0].toNat / 2 * 2, m.bank[0].toNat / 2 * 2 + 1, m.bank[1].toNat / 2 * 2, m.bank[1].toNat / 2 * 2 + 1]
  let singles := [m.bank[2].toNat, m.bank[3].toNat, m.bank[4].toNat, m.bank[5].toNat]
  if m.bankSelect.getLsbD 7 = true then singles ++ pairs else pairs ++ singles

theorem Mmc3.chrBank_eq (m : Mmc3) (slot : Fin 8) : m.chrBank slot = (m.chrBanks.getD slot 0 : Nat) := by
  unfold Mmc3.chrBank Mmc3.chrBanks Mmc3.chrMode
  rw [even_byte, odd_byte, even_byte, odd_byte]
  cases m.bankSelect.getLsbD 7 <;> fin_cases slot <;> rfl

section
variable {c : Cartridge} {m : Mmc3} {a : Nat} (hb : c.board = .mmc3 m)
include hb

/-- The four 8 KiB windows, for a bank counted from the start. -/
theorem Cartridge.prgOffset_mmc3 (slot : Nat) {b : Nat} (hbank : m.prgBank slot = b) (hlo : 0x8000 + slot * 8192 ≤ a)
    (hhi : a < 0x8000 + (slot + 1) * 8192) : c.prgOffset a = b % (c.prgLen / 8192) * 8192 + a % 8192 :=
  Cartridge.prgOffset_natCast (by rw [hb]; rfl) (by decide) hlo hhi (by rw [hb]; exact hbank)

/-- The same for a bank counted from the end. -/
theorem Cartridge.prgOffset_mmc3_neg (slot : Nat) {j : Nat} (hbank : m.prgBank slot = -j) (hj : 0 < j)
    (hn : j ≤ c.prgLen / 8192) (hlo : 0x8000 + slot * 8192 ≤ a) (hhi : a < 0x8000 + (slot + 1) * 8192) :
    c.prgOffset a = (c.prgLen / 8192 - j) % (c.prgLen / 8192) * 8192 + a % 8192 :=
  Cartridge.prgOffset_neg (by rw [hb]; rfl) (by decide) hlo hhi (by rw [hb]; exact hbank) hj hn

end

/-- Settles O52: each window is a slot of the board, and the slot's bank a remainder. -/
theorem mmc3Windows : Obligations.Mmc3Windows := by
  refine fun c m a hb => ⟨fun hbanks hpos => ?prg, fun ha => ?chr⟩
  case prg =>
    intro n r6 r7 at'
    have h6 : (m.bank[6] &&& 0x3F).toNat = r6 := low_six_bits _
    have h7 : (m.bank[7] &&& 0x3F).toNat = r7 := low_six_bits _
    have hn : 2 ≤ n := by omega
    have hslot0 : m.prgBank 0 = if m.bankSelect.getLsbD 6 = true then -2 else (r6 : Int) := by rw [← h6]; rfl
    have hslot2 : m.prgBank 2 = if m.bankSelect.getLsbD 6 = true then (r6 : Int) else -2 := by rw [← h6]; rfl
    refine ⟨fun hlo hhi => ?_, fun hlo hhi => ?_, fun hlo hhi => ?_, fun hlo hhi => ?_⟩
    · split
      next h => exact Cartridge.prgOffset_mmc3_neg hb 0 (hslot0.trans (if_pos h)) two_pos hn hlo hhi
      next h => exact Cartridge.prgOffset_mmc3 hb 0 (hslot0.trans (if_neg h)) hlo hhi
    · exact Cartridge.prgOffset_mmc3 hb 1 (congrArg Nat.cast h7) hlo hhi
    · split
      next h => exact Cartridge.prgOffset_mmc3 hb 2 (hslot2.trans (if_pos h)) hlo hhi
      next h => exact Cartridge.prgOffset_mmc3_neg hb 2 (hslot2.trans (if_neg h)) two_pos hn hlo hhi
    · exact Cartridge.prgOffset_mmc3_neg hb 3 rfl one_pos (by omega) hlo hhi
  case chr =>
    have hk : c.board.chrWindow = 1024 := by rw [hb]; rfl
    have hbank : c.board.chrBank (a / 1024) = (m.chrBanks.getD (a / 1024) 0 : Nat) := by
      rw [hb]
      exact m.chrBank_eq ⟨a / 1024, by omega⟩
    exact Cartridge.chrOffset_natCast hk (by omega) (by omega) hbank

/-! ### The register that a write selects (spec/52_mapper_boards.md R481) -/

/-- The bits of an address that the register select looks at, and bit 15. -/
theorem register_mask_bits : ∀ i < 16, (0xE001 : Word).getLsbD i = true → i = 0 ∨ i = 13 + 0 ∨ i = 13 + 1 ∨ i = 15 := by
  decide

theorem word_bit_fifteen {a : Word} (h : 0x8000 ≤ a.toNat) : a.getLsbD 15 = true := by
  have hlt := a.isLt
  rw [BitVec.getLsbD, Nat.testBit_eq_decide_div_mod_eq, decide_eq_true_eq]
  omega

theorem Mmc3.selector_masked (a : Word) : Mmc3.selector (a &&& 0xE001) = Mmc3.selector a := by
  have hbits : (a &&& 0xE001).extractLsb' 13 2 = a.extractLsb' 13 2 := by
    rw [BitVec.extractLsb'_and]
    exact BitVec.and_allOnes
  have hbit : (a &&& 0xE001).getLsbD 0 = a.getLsbD 0 := by
    rw [BitVec.getLsbD_and]
    exact Bool.and_true _
  rw [Mmc3.selector, hbits, hbit, ← Mmc3.selector]

/-- From `$8000` on, the address AND `$E001` and the selector tell the same addresses apart. -/
theorem Mmc3.selector_eq_iff {a w : Word} (ha : 0x8000 ≤ a.toNat) (hw : 0x8000 ≤ w.toNat) :
    Mmc3.selector a = Mmc3.selector w ↔ a &&& 0xE001 = w &&& 0xE001 := by
  constructor
  · intro h
    obtain ⟨hbits, h0⟩ := Prod.mk.inj h
    replace hbits := BitVec.eq_of_toNat_eq hbits
    have hbit (j : Nat) (hj : j < 2) : a.getLsbD (13 + j) = w.getLsbD (13 + j) := by
      have := congrArg (·.getLsbD j) hbits
      simpa [hj] using this
    apply BitVec.eq_of_getLsbD_eq
    intro i hi
    rw [BitVec.getLsbD_and, BitVec.getLsbD_and]
    by_cases hmask : (0xE001 : Word).getLsbD i = true
    · have hsame : a.getLsbD i = w.getLsbD i := by
        obtain rfl | rfl | rfl | rfl := register_mask_bits i hi hmask
        · exact h0
        · exact hbit 0 (by decide)
        · exact hbit 1 (by decide)
        · exact (word_bit_fifteen ha).trans (word_bit_fifteen hw).symm
      rw [hsame]
    · rw [Bool.eq_false_iff.mpr hmask, Bool.and_false, Bool.and_false]
  · intro h
    rw [← Mmc3.selector_masked a, h, Mmc3.selector_masked]

/-- A register address, in the spelling of the statement. -/
theorem Mmc3.masked_eq_iff {a w : Word} (ha : 0x8000 ≤ a.toNat) (hw : 0x8000 ≤ w.toNat) (hmask : w &&& 0xE001 = w) :
    a &&& 0xE001 = w ↔ Mmc3.selector a = Mmc3.selector w := by
  rw [Mmc3.selector_eq_iff ha hw, hmask]

/-! ### What a register write does (spec/52_mapper_boards.md R481 to R488) -/

section
variable (m : Mmc3) (initial now : Mirroring) (a : Word) (v : Byte)

theorem Mmc3.write_masked : m.write (a &&& 0xE001) v = m.write a v := by
  rw [Mmc3.write, Mmc3.selector_masked, ← Mmc3.write]

theorem Mmc3.mirroringWrite_masked :
    Mmc3.mirroringWrite initial now (a &&& 0xE001) v = Mmc3.mirroringWrite initial now a v := by
  rw [Mmc3.mirroringWrite, Mmc3.selector_masked, ← Mmc3.mirroringWrite]

theorem Mmc3.mirroringWrite_select :
    Mmc3.mirroringWrite initial now 0xA000 v =
      if initial = .fourScreen then now else if v.getLsbD 0 = true then .horizontal else .vertical := by
  by_cases hfour : initial = .fourScreen
  · rw [if_pos hfour]
    exact if_neg fun hand => hand.2 hfour
  · rw [if_neg hfour]
    exact if_pos ⟨rfl, hfour⟩

theorem Mmc3.target_toNat : m.target = m.bankSelect.toNat % 8 := by
  rw [Mmc3.target]
  generalize m.bankSelect = b
  revert b
  decide

theorem Mmc3.write_bankData (k : Fin 8) (hk : k.val = m.bankSelect.toNat % 8) :
    m.write 0x8001 v = ({ m with bank := m.bank.set k v }, []) := by
  have hset : m.bank.setIfInBounds m.target v = m.bank.set k v := by
    rw [m.target_toNat, ← hk]
    exact Vector.ext fun i hi => by rw [Vector.getElem_setIfInBounds, Vector.getElem_set]
  rw [← hset]
  rfl

theorem Mmc3.irqAck_mem_write : .irqAck ∈ (m.write a v).2 ↔ Mmc3.selector a = (3, false) := by
  unfold Mmc3.write
  split <;> simp_all

end

theorem irqAck_not_mem_notifications (before after : Cartridge) : .irqAck ∉ notifications before after := by
  unfold notifications bankSwitches
  split <;> simp

theorem Cartridge.componentWrite_events (cfg : Config) {c : Cartridge} (h : c.cycleIrq = none) (a : Word) (v : Byte) :
    (c.componentWrite cfg a v).2 = [] := by
  rw [Cartridge.componentWrite, h]

section
variable (cfg : Config) {c : Cartridge} {m : Mmc3} (hb : c.board = .mmc3 m) (a : Word) (v : Byte)
include hb

theorem Cartridge.boardWrite_mmc3 :
    c.boardWrite a v = ({ c with
      board := .mmc3 (m.write a v).1
      mirroring := Mmc3.mirroringWrite c.initialMirroring c.mirroring a v }, (m.write a v).2) := by
  rw [Cartridge.boardWrite, hb]

theorem Cartridge.registerWrite_mmc3_board : (c.registerWrite cfg a v).1.board = .mmc3 (m.write a v).1 := by
  rw [Cartridge.registerWrite, Cartridge.boardWrite_mmc3 hb]
  rfl

theorem Cartridge.registerWrite_mmc3_mirroring :
    (c.registerWrite cfg a v).1.mirroring = Mmc3.mirroringWrite c.initialMirroring c.mirroring a v := by
  rw [Cartridge.registerWrite, Cartridge.boardWrite_mmc3 hb]
  rfl

theorem Cartridge.irqAck_mem_registerWrite (hg : c.cycleIrq = none) :
    .irqAck ∈ (c.registerWrite cfg a v).2 ↔ Mmc3.selector a = (3, false) := by
  have hcomponents : ((c.boardWrite a v).1.componentWrite cfg a v).2 = [] :=
    Cartridge.componentWrite_events cfg (by rw [Cartridge.boardWrite_mmc3 hb]; exact hg) a v
  have hboard : (c.boardWrite a v).2 = (m.write a v).2 := by rw [Cartridge.boardWrite_mmc3 hb]
  simp only [Cartridge.registerWrite, hcomponents, hboard, List.append_nil, List.mem_append, irqAck_not_mem_notifications,
    or_false, Mmc3.irqAck_mem_write]

end

/-- Settles O53: a write goes by its masked address, and `Mmc3.write` says what it does at each. -/
theorem mmc3RegisterWrites : Obligations.Mmc3RegisterWrites := by
  intro cfg c m a v hb hg ha w sel same
  have hw : w = c.registerWrite cfg a v := c.write_register cfg v ha
  have hboard : w.1.board = .mmc3 (m.write sel v).1 := by
    rw [hw, Cartridge.registerWrite_mmc3_board cfg hb, Mmc3.write_masked]
  have hmirroring : w.1.mirroring = Mmc3.mirroringWrite c.initialMirroring c.mirroring sel v := by
    rw [hw, Cartridge.registerWrite_mmc3_mirroring cfg hb, Mmc3.mirroringWrite_masked]
  have hack : .irqAck ∈ w.2 ↔ sel = 0xE000 := by
    rw [hw, Cartridge.irqAck_mem_registerWrite cfg hb a v hg]
    exact (Mmc3.masked_eq_iff (w := 0xE000) ha (by decide) rfl).symm
  have hsame (x : Word) (n : Mmc3) (hx : Mmc3.selector x ≠ (1, false)) (hn : (m.write x v).1 = n) (h : sel = x) : same n := by
    rw [h] at hboard hmirroring
    exact ⟨hboard.trans (congrArg Board.mmc3 hn), hmirroring.trans (if_neg fun hand => hx hand.1)⟩
  refine ⟨hsame 0x8000 _ (by decide) rfl, fun h k hk => ?bankData, fun h => ?mirroring, hsame 0xA001 _ (by decide) rfl,
    hsame 0xC000 _ (by decide) rfl, hsame 0xC001 _ (by decide) rfl, hsame 0xE000 _ (by decide) rfl,
    hsame 0xE001 _ (by decide) rfl, hack, c.write_no_irq cfg a v⟩
  case bankData => exact hsame 0x8001 _ (by decide) (congrArg Prod.fst (m.write_bankData v k hk)) h
  case mirroring =>
    rw [h] at hboard hmirroring
    exact ⟨hboard, hmirroring.trans (Mmc3.mirroringWrite_select ..)⟩

end Sys2Proof.Machine
end

section
/-! PROOFS. Interrupt requests, the entry of a pending one (spec/60_exceptions.md R521 to R528) and `reset()`
(spec/70_reset_and_hazards.md R560 to R570). -/

namespace Sys2Proof.Machine

/-! ### Requests and acknowledge -/

/-- Settles O18: each signal is one update of the pending request, after the events are cleared. -/
theorem requestsAndAcknowledge : Obligations.RequestsAndAcknowledge :=
  fun s => ⟨congrArg s.begin.setPending (requestIrq_eq ..), rfl, rfl⟩

/-! ### Which requests are entered (spec/60_exceptions.md R528) -/

theorem State.entersInterrupt_iff (s : State) :
    s.entersInterrupt = true ↔
      s.pending = .nmi ∨ (s.pending = .irq ∧ (s.cfg.irqMaskPoint = .delivery → s.flag .i = false)) := by
  unfold State.entersInterrupt
  cases s.pending with
  | none | nmi => simp
  | irq => cases s.cfg.irqMaskPoint <;> simp

theorem State.takePending_of_not_enters {s : State} (h : s.entersInterrupt = false) : s.takePending = s := by
  rw [State.takePending, h, if_neg Bool.false_ne_true]

/-- Settles O17: `entersInterrupt` by its cases, and the two steps that never ask it. -/
theorem interruptEntryConditions : Obligations.InterruptEntryConditions := by
  refine fun s => ⟨s.entersInterrupt_iff, State.takePending_of_not_enters, fun t hidle ht => ?_⟩
  cases hh : s.halted with
  | true =>
    obtain rfl : s.haltedStep = t := by simpa [step_of_halted hh] using ht
    exact ⟨rfl, rfl, rfl⟩
  | false =>
    have hstall : s.stall ≠ 0 := (hidle.resolve_left (by simp [hh])).ne'
    obtain rfl : s.stallStep = t := by simpa [step_of_stalled hh hstall] using ht
    exact ⟨rfl, rfl, rfl⟩

/-! ### The entry (spec/60_exceptions.md R525 to R527) -/

theorem pushedByInterrupt_eq (b : Bool) (p : Byte) :
    pushedByInterrupt b p = (p &&& 0xEF) ||| (if b = true then 0x10 else 0) ||| 0x20 := by
  cases b <;> rfl

theorem interruptVector_eq (cfg : Config) (k : Pending) :
    interruptVector cfg k = if k = .nmi then cfg.vecNmi else cfg.vecIrq := by
  cases k <;> rfl

/-- An effect stays one when cycles are charged and the request is settled, as `enterInterrupt` does last. -/
theorem StoreEffect.charge_setPending {regs : List Reg} {flags : List Flag} {stores : List (Word × Byte)} {u s t : State}
    (h : StoreEffect regs flags stores u s t) (n : Nat) (k : Pending) :
    StoreEffect regs flags stores (u.setPending k) s ((t.charge n).setPending k) where
  regs r hr := by rw [State.setPending_reg, State.charge_reg, h.regs r hr]
  flags    := h.flags
  control  := ⟨h.control.halted, h.control.cfg, h.control.returned⟩
  stored   := h.stored.congr (.refl s) (.of_eq rfl rfl rfl)
  outside  := ⟨h.outside.events, rfl, h.outside.stall, h.outside.replies⟩

theorem State.enterInterrupt_effect (s : State) (k : Pending) :
    let stores := exceptionFrame s.sp s.pc (pushedByInterrupt s.cfg.intPushB s.p)
    let vec := interruptVector s.cfg k
    StoreEffect [.sp] [.i] stores
      ((((s.busWrites stores).setFlag .i true).busReads [vec, vec + 1]).setPending .none) s (s.enterInterrupt k) := by
  intro stores vec
  have halike := (BusAlike.refl s).enterException rfl s.pc (pushedByInterrupt s.cfg.intPushB s.p) vec
  have hstored := s.enterException_stored s.pc (pushedByInterrupt s.cfg.intPushB s.p) vec
  rw [byte_sub_two] at hstored
  have hentry : StoreEffect [.sp] [.i] stores (((s.busWrites stores).setFlag .i true).busReads [vec, vec + 1]) s
      (s.enterException s.pc (pushedByInterrupt s.cfg.intPushB s.p) vec) :=
    .of_alike halike hstored (.of_axy (by simp) (by simp) (by simp))
      (fun f hf => by simp [List.ne_of_not_mem_cons hf]) (by simp) (by simp) (by simp)
  exact hentry.charge_setPending 7 .none

/-- Settles O16: step 2 is `enterInterrupt` of the pending request. -/
theorem interruptEntry : Obligations.InterruptEntry := by
  intro s hs t vec pushed stores s1
  have ht : t = s.enterInterrupt s.pending := if_pos hs
  clear_value t
  subst ht
  have hvec : interruptVector s.cfg s.pending = vec := interruptVector_eq ..
  have hstores : exceptionFrame s.sp s.pc (pushedByInterrupt s.cfg.intPushB s.p) = stores := by
    rw [pushedByInterrupt_eq]
    rfl
  have hframe := ((BusAlike.refl s).push_frame rfl s.pc (pushedByInterrupt s.cfg.intPushB s.p)).setFlag_setFlag .i true
  rw [hstores] at hframe
  refine ⟨?effect, rfl, ?sp, ?flag, ?pc, ?cycles⟩
  case effect =>
    have heffect := s.enterInterrupt_effect s.pending
    rwa [hvec, hstores] at heffect
  case sp => rw [← byte_sub_three]; simp [State.enterInterrupt]
  case flag => simp [State.enterInterrupt]
  case pc => exact hvec ▸ hframe.read16 _
  case cycles => simp [State.enterInterrupt]

/-! ### Reset (spec/70_reset_and_hazards.md R560, R567, R570) -/

/-- Settles O1: the state at reset is power-on run on the default machine. -/
theorem resetState : Obligations.ResetState := by
  exact ⟨rfl, rfl, rfl, rfl, rfl, rfl, rfl, rfl, rfl, rfl, rfl⟩

/-- Settles O3: `resetCpu` is two reads, whose reactions are then overwritten. -/
theorem resetTransaction : Obligations.ResetTransaction := by
  intro s v s1 t
  have hreplies : s.replies.tail.tail = s.replies.drop 2 := by rw [← List.drop_one, ← List.drop_one, List.drop_drop]
  exact ⟨rfl, rfl, rfl, rfl, rfl, rfl, rfl, rfl, rfl, rfl, .of_eq rfl rfl rfl, rfl, hreplies⟩

end Sys2Proof.Machine
end
